-- ==== Sys2Proof/Word.lean ====
section
/-! DEFINITION. The widths of the unit's values (00_scope.md R9, R10; all values are unsigned). -/

namespace Sys2Proof

/-- A command word, 16 bits (30_encoding.md R52). -/
abbrev Word := BitVec 16

/-- A symbol or field element, 5 bits (00_scope.md R7, R10). -/
abbrev Symbol := BitVec 5

/-- The 8 bits of an entry of `ALPHA` (10_state.md R27) and of the operand field of format C (30_encoding.md R55). The width
`CHARW` of a character code is a parameter: `Config.charw` (log entry 7). -/
abbrev CharCode := BitVec 8

/-- Response data and the identifier, 64 bits (00_scope.md R9, 30_encoding.md R61). -/
abbrev Data := BitVec 64

/-- `zext_64(v)`: `v` extended with zeros to 64 bits (00_scope.md R10). -/
def zext64 {n : Nat} (v : BitVec n) : Data := v.setWidth 64

end Sys2Proof
end

