-- ==== Sys2Proof/Syntax.lean ====
section
/-! DEFINITION. The thirteen commands, one constructor per row of spec/opcode_table.json, each with its operand
fields as the word holds them (30_encoding.md R52, R53, R60). -/

namespace Sys2Proof

/-- A command (30_encoding.md R53). -/
inductive Instr where
  | nop                            -- R105
  | rst                            -- R106
  | push (c : CharCode)            -- R76
  | fin                            -- R107
  | rd (r : BitVec 6)              -- R114
  | gmul (a b : Symbol)            -- R84
  | ldexp (i : Symbol)             -- R85
  | ldlog (i : Symbol)             -- R86
  | ldalf (i : Symbol)             -- R74
  | ldmap (i : Symbol)             -- R75
  | mapc (c : CharCode)            -- R73
  | synd (s : BitVec 3)            -- R97
  | chk                            -- R98
  deriving DecidableEq, Repr

end Sys2Proof
end

