-- ==== Sys2Proof/WellFormed.lean ====
section
/-! DEFINITION. Which commands are legal: the operand values that are not reserved (30_encoding.md R65). -/

namespace Sys2Proof

/-- A register number that names a register: 0x00..0x03 or 0x10..0x20 (10_state.md R26). -/
def legalReg (r : BitVec 6) : Bool := decide (r.toNat ≤ 0x03) || (decide (0x10 ≤ r.toNat) && decide (r.toNat ≤ 0x20))

/-- An index of `CWMAP`: 0..16 (30_encoding.md R57). -/
def legalMapIndex (i : Symbol) : Bool := decide (i.toNat ≤ 16)

/-- A check index: 1..4 (30_encoding.md R59). -/
def legalCheck (s : BitVec 3) : Bool := decide (1 ≤ s.toNat) && decide (s.toNat ≤ 4)

/-- The operand is outside the reserved set of R65. -/
def Instr.wf : Instr → Bool
  | .nop => true
  | .rst => true
  | .push _ => true
  | .fin => true
  | .rd r => legalReg r
  | .gmul _ _ => true
  | .ldexp _ => true
  | .ldlog _ => true
  | .ldalf _ => true
  | .ldmap i => legalMapIndex i
  | .mapc _ => true
  | .synd s => legalCheck s
  | .chk => true

end Sys2Proof
end

