-- ==== Sys2Proof/Decode.lean ====
section
/-! DEFINITION. The decoder, total on every 16-bit word (30_encoding.md R68), and the encoder (R52, R53). The
decoding of a word never depends on the state (R67). -/

namespace Sys2Proof

/-- Why a word is illegal. Each is answered E_ILL with no state written (30_encoding.md R63, R64, R65). -/
inductive Illegal where
  | reservedOpcode     -- R63
  | reservedBits       -- R64
  | reservedOperand    -- R65
  deriving DecidableEq, Repr

/-! The fields of a command word (R60). -/

/-- `op = cmd[15:12]`. -/
def opField (w : Word) : BitVec 4 := w.extractLsb' 12 4
/-- `arg = cmd[11:0]`. -/
def argField (w : Word) : BitVec 12 := w.extractLsb' 0 12
/-- `c = cmd[7:0]` (format C). -/
def cField (w : Word) : CharCode := w.extractLsb' 0 8
/-- `cmd[11:8]`, reserved in format C. -/
def cReserved (w : Word) : BitVec 4 := w.extractLsb' 8 4
/-- `r = cmd[5:0]` (format R). -/
def rField (w : Word) : BitVec 6 := w.extractLsb' 0 6
/-- `cmd[11:6]`, reserved in format R. -/
def rReserved (w : Word) : BitVec 6 := w.extractLsb' 6 6
/-- `a = cmd[9:5]` (format M). -/
def aField (w : Word) : Symbol := w.extractLsb' 5 5
/-- `b = cmd[4:0]` (format M). -/
def bField (w : Word) : Symbol := w.extractLsb' 0 5
/-- `cmd[11:10]`, reserved in format M. -/
def mReserved (w : Word) : BitVec 2 := w.extractLsb' 10 2
/-- `t = cmd[6:5]` (format L). -/
def tField (w : Word) : BitVec 2 := w.extractLsb' 5 2
/-- `i = cmd[4:0]` (format L). -/
def iField (w : Word) : Symbol := w.extractLsb' 0 5
/-- `cmd[11:7]`, reserved in format L. -/
def lReserved (w : Word) : BitVec 5 := w.extractLsb' 7 5
/-- `s = cmd[2:0]` (format S). -/
def sField (w : Word) : BitVec 3 := w.extractLsb' 0 3
/-- `cmd[11:3]`, reserved in format S. -/
def sReserved (w : Word) : BitVec 9 := w.extractLsb' 3 9

/-- The command, if the format's reserved bits are all 0; else the word is illegal (R64). -/
def unlessReserved {n : Nat} (reserved : BitVec n) (r : Except Illegal Instr) : Except Illegal Instr :=
  if reserved = 0 then r else .error .reservedBits

/-- The command, if its operand is legal; else the word is illegal (R65). -/
def unlessOperandReserved (i : Instr) : Except Illegal Instr :=
  if i.wf then .ok i else .error .reservedOperand

/-- Format L: the selector `t` chooses the table (R57). -/
def decodeTableLoad (t : BitVec 2) (i : Symbol) : Except Illegal Instr :=
  match t.toNat with
  | 0 => .ok (.ldexp i)
  | 1 => .ok (.ldlog i)
  | 2 => .ok (.ldalf i)
  | _ => unlessOperandReserved (.ldmap i)

/-- `decode(cmd)` of R68. -/
def decode (w : Word) : Except Illegal Instr :=
  match (opField w).toNat with
  | 0x0 => unlessReserved (argField w) (.ok .nop)
  | 0x1 => unlessReserved (argField w) (.ok .rst)
  | 0x2 => unlessReserved (cReserved w) (.ok (.push (cField w)))
  | 0x3 => unlessReserved (argField w) (.ok .fin)
  | 0x4 => unlessReserved (rReserved w) (unlessOperandReserved (.rd (rField w)))
  | 0x5 => unlessReserved (mReserved w) (.ok (.gmul (aField w) (bField w)))
  | 0x6 => unlessReserved (lReserved w) (decodeTableLoad (tField w) (iField w))
  | 0x7 => unlessReserved (cReserved w) (.ok (.mapc (cField w)))
  | 0x8 => unlessReserved (sReserved w) (unlessOperandReserved (.synd (sField w)))
  | 0x9 => unlessReserved (argField w) (.ok .chk)
  | _ => .error .reservedOpcode

/-- The command word of a command, each format with its reserved bits 0 (R52, R53). -/
def encode : Instr → Word
  | .nop => 0x0#4 ++ 0#12
  | .rst => 0x1#4 ++ 0#12
  | .push c => 0x2#4 ++ 0#4 ++ c
  | .fin => 0x3#4 ++ 0#12
  | .rd r => 0x4#4 ++ 0#6 ++ r
  | .gmul a b => 0x5#4 ++ 0#2 ++ a ++ b
  | .ldexp i => 0x6#4 ++ 0#5 ++ 0#2 ++ i
  | .ldlog i => 0x6#4 ++ 0#5 ++ 1#2 ++ i
  | .ldalf i => 0x6#4 ++ 0#5 ++ 2#2 ++ i
  | .ldmap i => 0x6#4 ++ 0#5 ++ 3#2 ++ i
  | .mapc c => 0x7#4 ++ 0#4 ++ c
  | .synd s => 0x8#4 ++ 0#9 ++ s
  | .chk => 0x9#4 ++ 0#12

/-- The word a table row's bits stand for: its low `nbits` bits, every bit above them 0 (every row has 16 bits). -/
def tableWord (nbits w : Nat) : Word := BitVec.ofNat 16 (w % 2 ^ nbits)

/-- The command the decoder reads from an instruction whose bits are `w`. -/
def decodeTableWord (nbits w : Nat) : Option Instr := (decode (tableWord nbits w)).toOption

end Sys2Proof
end

