-- ==== Sys2Proof/Machine/State.lean ====
section
/-! DEFINITION. The state of the unit (10_state.md R13 to R22), the two ports' sequences (30_encoding.md R51), the
reset state (R33), and the reasons a step can stop. -/

namespace Sys2Proof.Machine

/-- The phase register `PH` (10_state.md R15). The value 3 is never written and has no constructor (log entry 8). -/
inductive Phase where
  | collect    -- 0: characters are being accepted
  | doneOk     -- 1: FIN passed every check; `ID` holds the identifier
  | fail       -- 2: FIN ran and a check failed; `ERR` holds the kind
  deriving DecidableEq, Repr

/-- The three kinds of decode error (10_state.md R17, 60_exceptions.md R125). -/
inductive DecodeError where
  | tooShort          -- 1
  | checksumInvalid   -- 2
  | overflow          -- 3
  deriving DecidableEq, Repr

/-- The status of a response (30_encoding.md R61). Codes 6 and 7 are never produced and have no constructor. -/
inductive Status where
  | ok       -- 0
  | eLen     -- 1
  | eCsum    -- 2
  | eOvf     -- 3
  | eIll     -- 4
  | eState   -- 5
  deriving DecidableEq, Repr

/-- The one response of a command: `rsp_st` and `rsp_data` (30_encoding.md R51, R61). -/
structure Response where
  st : Status
  data : Data
  deriving DecidableEq, Repr

/-- What the host presents to the unit (30_encoding.md R51; 70_reset_and_hazards.md R143; log entries 1, 3). -/
inductive HostInput where
  | command (w : Word)       -- a command word at the command port
  | reset                    -- hardware reset with no command in progress
  | resetDuring (w : Word)   -- hardware reset while the command word `w` is in progress
  deriving DecidableEq, Repr

/-- The whole mutable state of the unit (10_state.md R13) and the sequences at its two ports (30_encoding.md R51). R13 calls
its five items "159 bits", while the widths of its own table sum to 158 (2 + 2 + 5 + 85 + 64); the spec does not say which
is meant, and the model follows the table (log entry 15, DESIGN CHOICE): no bit is stored besides the five items, and `CWV`
is `CNT = 17`, not a stored bit (R19). -/
structure State where
  /-- `PH` (R15). -/
  ph : Phase
  /-- `ERR` (R17); `none` is the spec's value 0, no failure. -/
  err : Option DecodeError
  /-- `CNT`, 5 bits (R18). -/
  cnt : BitVec 5
  /-- `CW[0..16]` (R14). -/
  cw : Vector Symbol 17
  /-- `ID`, 64 bits (R20). -/
  id : Data
  /-- What the host still presents, first one first. The model's field, no register of the unit (log entry 1). -/
  inputs : List HostInput
  /-- The responses given so far, oldest first. The model's field, no register of the unit (log entry 1). -/
  responses : List Response
  deriving DecidableEq, Repr

/-- Why the machine stops with a fault: never. The unit has no hang, no stuck state and no undefined result
(70_reset_and_hazards.md R158; log entry 9), so this type has no constructor, which is exact of the spec and
unsafe only if a real block can hang. -/
inductive Fault
  deriving DecidableEq, Repr

/-- Why an instruction has no meaning. -/
inductive Refusal where
  /-- Raised by an arm of `exec` whose instruction has no meaning yet; safe. No arm raises it: every command is modelled. -/
  | notModelled (mnemonic : String)
  deriving DecidableEq, Repr

/-- The machine after hardware reset (10_state.md R33): nothing pending at the command port, no response given. -/
def State.reset : State where
  ph := .collect
  err := none
  cnt := 0
  cw := Vector.replicate 17 0
  id := 0
  inputs := []
  responses := []

end Sys2Proof.Machine
end

