-- ==== Sys2Proof/Machine/Ops.lean ====
section
/-! DEFINITION. The operations every command shares: giving a response, the two rejections, entering a decode error and
leaving it, clearing the unit, and taking the next input. -/

namespace Sys2Proof.Machine

/-- `respond(st, data)`: the command ends with this response (00_scope.md R10, 30_encoding.md R51). -/
def respond (st : Status) (data : Data) (s : State) : State :=
  { s with responses := s.responses ++ [⟨st, data⟩] }

/-- `reject E_ILL`: no state written (60_exceptions.md R131). -/
def rejectIll (s : State) : State := respond .eIll 0 s

/-- `reject E_STATE`: no state written (60_exceptions.md R132). -/
def rejectState (s : State) : State := respond .eState 0 s

/-- The status that reports a decode error; its code equals the value of `ERR` (30_encoding.md R61). -/
def DecodeError.status : DecodeError → Status
  | .tooShort => .eLen
  | .checksumInvalid => .eCsum
  | .overflow => .eOvf

/-- `raise <kind>`, the whole of trap entry: `PH <- FAIL; ERR <- n; respond(n, 0)`; nothing is saved and control goes
nowhere (60_exceptions.md R127). -/
def raiseError (e : DecodeError) (s : State) : State :=
  respond e.status 0 { s with ph := .fail, err := some e }

/-- All of the unit's state to its reset value: the effect of RST and of hardware reset, and the only way out of FAIL
and DONE_OK (10_state.md R33, 43_orchestrator.md R106, 60_exceptions.md R135). -/
def clearUnit (s : State) : State :=
  { s with ph := .collect, err := none, cnt := 0, cw := Vector.replicate 17 0, id := 0 }

/-- Hardware reset: the reset state and no response (70_reset_and_hazards.md R143, R144). -/
def hardwareReset (s : State) : State := clearUnit s

/-- The next input the host presents, and the state in which it has been accepted (30_encoding.md R51). -/
def takeInput (s : State) : Option (HostInput × State) :=
  match s.inputs with
  | [] => none
  | x :: rest => some (x, { s with inputs := rest })

/-- The host presents a command word ahead of everything else it presents. -/
def presentCommand (w : Word) (s : State) : State := { s with inputs := .command w :: s.inputs }

end Sys2Proof.Machine
end

