-- ==== Sys2Proof/Config.lean ====
section
/-! DEFINITION. The configuration: the five parameters of 00_scope.md R8, and the conditions they must meet
(10_state.md R27 to R32, 92_eei_decisions.md "Open parameters in one place"). The spec's default contents are in Machine/Tables.lean. -/

namespace Sys2Proof

/-- A table set and the character width. `charw` is `CHARW`, the width of a character code at the port (R8, D7), `alpha[i]` is the character of symbol `i` (R27), `gexp[n]` the n-th power of the generator (R28),
`glog[a]` the discrete logarithm of `a` with entry 0 a placeholder (R29), `cwmap[n]` the slot of the n-th valid
character (R30); a slot number is in 0..16, so it is a `Fin 17`. -/
structure Config where
  charw : Nat
  alpha : Vector CharCode 32
  gexp : Vector Symbol 32
  glog : Vector Symbol 32
  cwmap : Vector (Fin 17) 17
  deriving DecidableEq, Repr

/-- `ALPHA[i]`, i in 0..31 (20_memory.md R36). -/
def Config.alphaAt (T : Config) (i : Symbol) : CharCode := T.alpha[i.toNat]'i.isLt

/-- `GEXP[i]`, i in 0..31 (20_memory.md R36). -/
def Config.gexpAt (T : Config) (i : Symbol) : Symbol := T.gexp[i.toNat]'i.isLt

/-- `GLOG[i]`, i in 0..31 (20_memory.md R36). -/
def Config.glogAt (T : Config) (i : Symbol) : Symbol := T.glog[i.toNat]'i.isLt

/-- `CWMAP[n]`, n in 0..16 (20_memory.md R36). -/
def Config.cwmapAt (T : Config) (n : Fin 17) : Fin 17 := T.cwmap[n.val]

/-- R31 condition 1: 32 distinct characters. -/
abbrev Config.AlphaDistinct (T : Config) : Prop := ∀ i j : Symbol, T.alphaAt i = T.alphaAt j → i = j

/-- The constraint on `CHARW`: at least the width of the widest `ALPHA` code (92_eei_decisions.md, open parameters). -/
abbrev Config.CharwFits (T : Config) : Prop := ∀ i : Symbol, (T.alphaAt i).toNat < 2 ^ T.charw

/-- R31 condition 2: `GEXP[0..30]` are non-zero and pairwise distinct, and `GEXP[31] = GEXP[0]`. -/
abbrev Config.GexpGenerates (T : Config) : Prop :=
  (∀ n : Symbol, n ≠ 31 → T.gexpAt n ≠ 0) ∧
  (∀ m n : Symbol, m ≠ 31 → n ≠ 31 → T.gexpAt m = T.gexpAt n → m = n) ∧
  T.gexpAt 31 = T.gexpAt 0

/-- R31 condition 3: `GLOG[GEXP[n]] = n` for n in 0..30; `GLOG[0]` is any value. -/
abbrev Config.GlogInverts (T : Config) : Prop := ∀ n : Symbol, n ≠ 31 → T.glogAt (T.gexpAt n) = n

/-- R31 condition 4: `CWMAP` is a permutation of 0..16 (distinct entries of a 17-entry table with values in 0..16). -/
abbrev Config.CwmapPermutes (T : Config) : Prop := ∀ m n : Fin 17, T.cwmapAt m = T.cwmapAt n → m = n

/-- R31 conditions 1 to 4, which every table set must meet. -/
abbrev Config.WellFormed (T : Config) : Prop :=
  T.AlphaDistinct ∧ T.GexpGenerates ∧ T.GlogInverts ∧ T.CwmapPermutes

end Sys2Proof
end

