-- ==== Sys2Proof/Machine/Tables.lean ====
section
/-! DEFINITION. The spec's defaults of the five parameters (00_scope.md R8; 10_state.md R27 to R30). The spec marks them
as supplied from general knowledge (93_implementation_defined.md G1 to G4; log entries 4, 5). -/

namespace Sys2Proof.Machine

/-- Default `ALPHA` (R27): `23456789ABCDEFGHJKLMNPQRSTUVWXYZ` in ASCII. -/
def defaultAlpha : Vector CharCode 32 :=
  #v[0x32, 0x33, 0x34, 0x35, 0x36, 0x37, 0x38, 0x39, 0x41, 0x42, 0x43, 0x44, 0x45, 0x46, 0x47, 0x48,
     0x4A, 0x4B, 0x4C, 0x4D, 0x4E, 0x50, 0x51, 0x52, 0x53, 0x54, 0x55, 0x56, 0x57, 0x58, 0x59, 0x5A]

/-- Default `GEXP` (R28). -/
def defaultGexp : Vector Symbol 32 :=
  #v[1, 2, 4, 8, 16, 5, 10, 20, 13, 26, 17, 7, 14, 28, 29, 31,
     27, 19, 3, 6, 12, 24, 21, 15, 30, 25, 23, 11, 22, 9, 18, 1]

/-- Default `GLOG` (R29); entry 0 is the placeholder 0 (log entry 5). -/
def defaultGlog : Vector Symbol 32 :=
  #v[0, 0, 1, 18, 2, 5, 19, 11, 3, 29, 6, 27, 20, 8, 12, 23,
     4, 10, 30, 17, 7, 22, 28, 26, 21, 25, 9, 16, 13, 14, 24, 15]

/-- Default `CWMAP` (R30). -/
def defaultCwmap : Vector (Fin 17) 17 :=
  #v[3, 2, 1, 0, 7, 6, 5, 4, 13, 14, 15, 16, 12, 8, 9, 10, 11]

/-- Default `CHARW` (00_scope.md R8, 92_eei_decisions.md D7; log entry 7). -/
def defaultCharw : Nat := 8

/-- The parameters the machine runs with. -/
def config : Config where
  charw := defaultCharw
  alpha := defaultAlpha
  gexp := defaultGexp
  glog := defaultGlog
  cwmap := defaultCwmap

end Sys2Proof.Machine
end

