-- ==== Sys2Proof/Machine/Field.lean ====
section
/-! DEFINITION. Galois-field arithmetic: GMUL, LDEXP, LDLOG (41_field.md). Each effect is written for any table set
`T`; the meaning runs it with the machine's. -/

namespace Sys2Proof.Machine

/-- `gmult(a, b)`: 0 if either operand is 0, else `GEXP[(GLOG[a] + GLOG[b]) mod 31]` (41_field.md R81, R83). Field
addition is `^^^` (R82). -/
def gmult (T : Config) (a b : Symbol) : Symbol :=
  if a = 0 ∨ b = 0 then 0
  else T.gexpAt (BitVec.ofNat 5 (((T.glogAt a).toNat + (T.glogAt b).toNat) % 31))

/-- 10_state.md R31 condition 5, `GEXP` is the power table of a generator of a field whose addition is xor: stated as
multiplication by the generator `GEXP[1]` being additive over xor (log entry 10). -/
abbrev FieldAdditive (T : Config) : Prop :=
  ∀ b c : Symbol, gmult T (T.gexpAt 1) (b ^^^ c) = gmult T (T.gexpAt 1) b ^^^ gmult T (T.gexpAt 1) c

/-- GMUL (41_field.md R84). -/
def gmulEffect (T : Config) (a b : Symbol) (s : State) : State := respond .ok (zext64 (gmult T a b)) s

/-- LDEXP (41_field.md R85). -/
def ldexpEffect (T : Config) (i : Symbol) (s : State) : State := respond .ok (zext64 (T.gexpAt i)) s

/-- LDLOG (41_field.md R86). -/
def ldlogEffect (T : Config) (i : Symbol) (s : State) : State := respond .ok (zext64 (T.glogAt i)) s

/-- GMUL with the machine's tables (41_field.md R84). -/
def execGmul (a b : Symbol) (s : State) : Host.Outcome State Fault Refusal := .next (gmulEffect config a b s)

/-- LDEXP with the machine's tables (41_field.md R85). -/
def execLdexp (i : Symbol) (s : State) : Host.Outcome State Fault Refusal := .next (ldexpEffect config i s)

/-- LDLOG with the machine's tables (41_field.md R86). -/
def execLdlog (i : Symbol) (s : State) : Host.Outcome State Fault Refusal := .next (ldlogEffect config i s)

end Sys2Proof.Machine
end

