-- ==== Sys2Proof/Machine/Flags.lean ====
section
/-! DEFINITION. The flag and field encodings: `CWV`, the codes of `PH`, `ERR` and `rsp_st`, and the STATUS register
(10_state.md R15, R17, R19, R23). -/

namespace Sys2Proof.Machine

/-- `PH` as its 2 bits (10_state.md R15). -/
def Phase.bits : Phase → BitVec 2
  | .collect => 0
  | .doneOk => 1
  | .fail => 2

/-- A decode error's code (10_state.md R17). -/
def DecodeError.bits : DecodeError → BitVec 2
  | .tooShort => 1
  | .checksumInvalid => 2
  | .overflow => 3

/-- `ERR` as its 2 bits (10_state.md R17). -/
def errBits : Option DecodeError → BitVec 2
  | none => 0
  | some e => e.bits

/-- `rsp_st` as its 3 bits (30_encoding.md R61). -/
def Status.code : Status → BitVec 3
  | .ok => 0
  | .eLen => 1
  | .eCsum => 2
  | .eOvf => 3
  | .eIll => 4
  | .eState => 5

/-- `CWV`: the codeword is populated, `CNT = 17` (10_state.md R19). -/
def cwv (s : State) : Bool := s.cnt == 17

/-- `zext_64(CNT ‖ 000 ‖ CWV ‖ ERR ‖ PH)` (10_state.md R23). -/
def statusWord (s : State) : Data :=
  zext64 (s.cnt ++ 0#3 ++ BitVec.ofBool (cwv s) ++ errBits s.err ++ s.ph.bits)

end Sys2Proof.Machine
end

