-- ==== Sys2Proof/Machine/Hex.lean ====
section
/-! DEFINITION. The hexadecimal view of the identifier (43_orchestrator.md R116, R117; 20_memory.md R39, R40; log
entry 6). -/

namespace Sys2Proof.Machine

/-- `HexDigit(n)`: the ASCII code of the lowercase hexadecimal digit (R116). -/
def hexDigit (n : BitVec 4) : CharCode :=
  if n.toNat ≤ 9 then BitVec.ofNat 8 (0x30 + n.toNat) else BitVec.ofNat 8 (0x61 + (n.toNat - 10))

/-- `HexChar(k) = HexDigit(ID[63-4k : 60-4k])`, k in 0..15: character 0 is the most significant digit (R116). -/
def hexChar (id : Data) (k : Nat) : CharCode := hexDigit (id.extractLsb' (60 - 4 * k) 4)

/-- `HEXHI = HexChar(0) ‖ ... ‖ HexChar(7)` (R117). -/
def hexHi (id : Data) : Data :=
  hexChar id 0 ++ hexChar id 1 ++ hexChar id 2 ++ hexChar id 3 ++
  hexChar id 4 ++ hexChar id 5 ++ hexChar id 6 ++ hexChar id 7

/-- `HEXLO = HexChar(8) ‖ ... ‖ HexChar(15)` (R117). -/
def hexLo (id : Data) : Data :=
  hexChar id 8 ++ hexChar id 9 ++ hexChar id 10 ++ hexChar id 11 ++
  hexChar id 12 ++ hexChar id 13 ++ hexChar id 14 ++ hexChar id 15

end Sys2Proof.Machine
end

