-- ==== Sys2Proof/Machine/Operands.lean ====
section
/-! DEFINITION. The operand forms that select a location: the register space of RD, the index of `CWMAP`, the check
index of SYND (10_state.md R26, 30_encoding.md R57 to R59, 20_memory.md R36). Every other operand is used as it stands
(30_encoding.md R60). -/

namespace Sys2Proof.Machine

/-- A host-visible register (10_state.md R23 to R26). -/
inductive Reg where
  | status
  | id
  | hexHi
  | hexLo
  | cw (k : Fin 17)
  deriving DecidableEq, Repr

/-- The register a number names; `none` for a reserved number (10_state.md R26). -/
def regOf (r : BitVec 6) : Option Reg :=
  match r.toNat with
  | 0x00 => some .status
  | 0x01 => some .id
  | 0x02 => some .hexHi
  | 0x03 => some .hexLo
  | n => if h : 0x10 ≤ n ∧ n ≤ 0x20 then some (.cw ⟨n - 0x10, by omega⟩) else none

/-- What a register holds, `none` where the present phase does not permit reading it (10_state.md R23 to R26,
43_orchestrator.md R114). -/
def readReg (x : Reg) (s : State) : Option Data :=
  match x with
  | .status => some (statusWord s)
  | .id => if s.ph = .doneOk then some s.id else none
  | .hexHi => if s.ph = .doneOk then some (Machine.hexHi s.id) else none
  | .hexLo => if s.ph = .doneOk then some (Machine.hexLo s.id) else none
  | .cw k => some (zext64 s.cw[k.val])

/-- The entry of `CWMAP` an index selects; `none` for 17..31 (30_encoding.md R57). -/
def mapIndex (i : Symbol) : Option (Fin 17) := if h : i.toNat < 17 then some ⟨i.toNat, h⟩ else none

/-- The check index a SYND operand stands for; `none` for 0, 5, 6, 7 (30_encoding.md R59). -/
def checkIndex (c : BitVec 3) : Option Nat := if 1 ≤ c.toNat ∧ c.toNat ≤ 4 then some c.toNat else none

end Sys2Proof.Machine
end

