-- ==== Sys2Proof/Machine/Mapper.lean ====
section
/-! DEFINITION. The Alphabet Mapper: MAPC, LDALF, LDMAP, PUSH (40_mapper.md). Each effect is written for any table set
`T`; the meaning runs it with the machine's. -/

namespace Sys2Proof.Machine

/-- The 32 symbol values 0..31. -/
def symbols : List Symbol := (List.range 32).map (BitVec.ofNat 5)

/-- `MapLookup(c)` of a character code of `CHARW` bits: a hit with the index `i` that has `ALPHA[i] = c`, or a miss, `none`
(40_mapper.md R71, 00_scope.md R8). -/
def lookupCode (T : Config) (c : BitVec T.charw) : Option Symbol :=
  symbols.find? (fun i => (T.alphaAt i).toNat == c.toNat)

/-- The character code of `CHARW` bits that the 8-bit operand field of format C carries (30_encoding.md R55). A field that
does not fit `CHARW` < 8 bits is no code: it is never truncated (40_mapper.md R80; log entry 7, DESIGN CHOICE). -/
def portCode (T : Config) (c : CharCode) : Option (BitVec T.charw) :=
  if c.toNat < 2 ^ T.charw then some (c.setWidth T.charw) else none

/-- `MapLookup(c)` of the operand field of MAPC and PUSH; a field that is no character code misses (40_mapper.md R71). -/
def mapLookup (T : Config) (c : CharCode) : Option Symbol := (portCode T c).bind (lookupCode T)

/-- `zext_64(hit ‖ sym)`, `sym` 0 on a miss (40_mapper.md R73, 30_encoding.md R62). -/
def hitData : Option Symbol → Data
  | none => zext64 (0#1 ++ 0#5)
  | some v => zext64 (1#1 ++ v)

/-- `if CNT < 17 then CW[CWMAP[CNT]] <- sym` (40_mapper.md R76, R78). -/
def storeSymbol (T : Config) (v : Symbol) (s : State) : State :=
  if h : s.cnt.toNat < 17 then { s with cw := s.cw.set (T.cwmapAt ⟨s.cnt.toNat, h⟩) v } else s

/-- `if CNT < 18 then CNT <- CNT + 1`: the count saturates at 18 (40_mapper.md R76, 10_state.md R18). -/
def countValid (s : State) : State :=
  if s.cnt.toNat < 18 then { s with cnt := s.cnt + 1 } else s

/-- MAPC (40_mapper.md R73). -/
def mapcEffect (T : Config) (c : CharCode) (s : State) : State := respond .ok (hitData (mapLookup T c)) s

/-- LDALF (40_mapper.md R74). -/
def ldalfEffect (T : Config) (i : Symbol) (s : State) : State := respond .ok (zext64 (T.alphaAt i)) s

/-- LDMAP (40_mapper.md R75); an index outside 0..16 is a reserved encoding, which the decoder never lets through and
which is answered E_ILL here too (log entry 11). -/
def ldmapEffect (T : Config) (i : Symbol) (s : State) : State :=
  match mapIndex i with
  | some n => respond .ok (zext64 (BitVec.ofNat 5 (T.cwmapAt n).val)) s
  | none => rejectIll s

/-- PUSH (40_mapper.md R76 to R78). -/
def pushEffect (T : Config) (c : CharCode) (s : State) : State :=
  if s.ph ≠ .collect then rejectState s
  else match mapLookup T c with
    | none => respond .ok (hitData none) s
    | some v => respond .ok (hitData (some v)) (countValid (storeSymbol T v s))

/-- MAPC with the machine's tables (40_mapper.md R73). -/
def execMapc (c : CharCode) (s : State) : Host.Outcome State Fault Refusal := .next (mapcEffect config c s)

/-- LDALF with the machine's tables (40_mapper.md R74). -/
def execLdalf (i : Symbol) (s : State) : Host.Outcome State Fault Refusal := .next (ldalfEffect config i s)

/-- LDMAP with the machine's tables (40_mapper.md R75). -/
def execLdmap (i : Symbol) (s : State) : Host.Outcome State Fault Refusal := .next (ldmapEffect config i s)

/-- PUSH with the machine's tables (40_mapper.md R76). -/
def execPush (c : CharCode) (s : State) : Host.Outcome State Fault Refusal := .next (pushEffect config c s)

end Sys2Proof.Machine
end

