-- ==== Sys2Proof/Machine/Validator.lean ====
section
/-! DEFINITION. The Checksum Validator: SYND, CHK (42_validator.md). -/

namespace Sys2Proof.Machine

/-- The 17 slot numbers in order. -/
def slots : List (Fin 17) := List.finRange 17

/-- `JOF(k)`, the evaluation point of slot `k`: `k` for 0..12, `k + 14` for 13..16 (42_validator.md R94). -/
def jof (k : Fin 17) : Nat := if k.val ≤ 12 then k.val else k.val + 14

/-- `H(i, k) = GEXP[(i * JOF(k)) mod 31]` (42_validator.md R95). -/
def coeff (T : Config) (i : Nat) (k : Fin 17) : Symbol := T.gexpAt (BitVec.ofNat 5 ((i * jof k) % 31))

/-- `Syndrome(i)`: the xor over the slots of `gmult(CW[k], H(i, k))` (42_validator.md R93). -/
def syndrome (T : Config) (i : Nat) (cw : Vector Symbol 17) : Symbol :=
  slots.foldl (fun t k => t ^^^ gmult T cw[k.val] (coeff T i k)) 0

/-- `Valid()`: the bitwise or of the four syndromes is 0 (42_validator.md R96). -/
def valid (T : Config) (cw : Vector Symbol 17) : Bool :=
  (syndrome T 1 cw ||| syndrome T 2 cw ||| syndrome T 3 cw ||| syndrome T 4 cw) == 0

/-- SYND (42_validator.md R97); a check index outside 1..4 is a reserved encoding, which the decoder never lets through
and which is answered E_ILL here too (log entry 11). -/
def syndEffect (T : Config) (c : BitVec 3) (s : State) : State :=
  match checkIndex c with
  | none => rejectIll s
  | some i => if cwv s then respond .ok (zext64 (syndrome T i s.cw)) s else rejectState s

/-- CHK (42_validator.md R98). -/
def chkEffect (T : Config) (s : State) : State :=
  if cwv s then respond .ok (zext64 (BitVec.ofBool (valid T s.cw))) s else rejectState s

/-- SYND with the machine's tables (42_validator.md R97). -/
def execSynd (c : BitVec 3) (s : State) : Host.Outcome State Fault Refusal := .next (syndEffect config c s)

/-- CHK with the machine's tables (42_validator.md R98). -/
def execChk (s : State) : Host.Outcome State Fault Refusal := .next (chkEffect config s)

end Sys2Proof.Machine
end

