-- ==== Sys2Proof/Machine/Orchestrator.lean ====
section
/-! DEFINITION. The Decode Orchestrator: NOP, RST, FIN, RD (43_orchestrator.md). -/

namespace Sys2Proof.Machine

/-- The 13 data slots, in order (43_orchestrator.md R108). -/
def dataSlots : List (Fin 17) := slots.take 13

/-- `Accumulate()`: the 65-bit sum of `zext_65(CW[k]) * 32^k` over the slots 0..12 (43_orchestrator.md R108). -/
def accumulate (cw : Vector Symbol 17) : BitVec 65 :=
  dataSlots.foldl (fun acc k => acc + cw[k.val].setWidth 65 * BitVec.ofNat 65 (32 ^ k.val)) 0

/-- The overflow test: bit 64 of the full 65-bit value (43_orchestrator.md R109). -/
def overflows (acc : BitVec 65) : Bool := acc.getLsbD 64

/-- NOP (43_orchestrator.md R105). -/
def nopEffect (s : State) : State := respond .ok 0 s

/-- RST (43_orchestrator.md R106). -/
def rstEffect (s : State) : State := respond .ok 0 (clearUnit s)

/-- The success of FIN: `ID <- acc[63:0]; PH <- DONE_OK; respond(0, ID)` (43_orchestrator.md R107, R112). -/
def finish (acc : BitVec 65) (s : State) : State :=
  respond .ok (acc.setWidth 64) { s with id := acc.setWidth 64, ph := .doneOk }

/-- FIN: the length, the checksum, then the range (43_orchestrator.md R107, R111, R113). -/
def finEffect (T : Config) (s : State) : State :=
  if s.ph ≠ .collect then rejectState s
  else if s.cnt ≠ 17 then raiseError .tooShort s
  else if valid T s.cw = false then raiseError .checksumInvalid s
  else if overflows (accumulate s.cw) then raiseError .overflow s
  else finish (accumulate s.cw) s

/-- RD (43_orchestrator.md R114); a reserved register number is a reserved encoding, which the decoder never lets
through and which is answered E_ILL here too (log entry 11). -/
def rdEffect (r : BitVec 6) (s : State) : State :=
  match regOf r with
  | none => rejectIll s
  | some x =>
    match readReg x s with
    | some d => respond .ok d s
    | none => rejectState s

/-- NOP (43_orchestrator.md R105). -/
def execNop (s : State) : Host.Outcome State Fault Refusal := .next (nopEffect s)

/-- RST (43_orchestrator.md R106). -/
def execRst (s : State) : Host.Outcome State Fault Refusal := .next (rstEffect s)

/-- FIN with the machine's tables (43_orchestrator.md R107). -/
def execFin (s : State) : Host.Outcome State Fault Refusal := .next (finEffect config s)

/-- RD (43_orchestrator.md R114). -/
def execRd (r : BitVec 6) (s : State) : Host.Outcome State Fault Refusal := .next (rdEffect r s)

end Sys2Proof.Machine
end

