-- ==== Sys2Proof/Machine/Dispatch.lean ====
section
/-! DEFINITION. One arm per command: the meaning of each row of spec/opcode_table.json. -/

namespace Sys2Proof.Machine

def exec (i : Instr) (s : State) : Host.Outcome State Fault Refusal :=
  match i with
  | .nop => Sys2Proof.Machine.execNop s
  | .rst => Sys2Proof.Machine.execRst s
  | .push c => Sys2Proof.Machine.execPush c s
  | .fin => Sys2Proof.Machine.execFin s
  | .rd r => Sys2Proof.Machine.execRd r s
  | .gmul a b => Sys2Proof.Machine.execGmul a b s
  | .ldexp k => Sys2Proof.Machine.execLdexp k s
  | .ldlog k => Sys2Proof.Machine.execLdlog k s
  | .ldalf k => Sys2Proof.Machine.execLdalf k s
  | .ldmap k => Sys2Proof.Machine.execLdmap k s
  | .mapc c => Sys2Proof.Machine.execMapc c s
  | .synd k => Sys2Proof.Machine.execSynd k s
  | .chk => Sys2Proof.Machine.execChk s

end Sys2Proof.Machine
end

