-- ==== Sys2Proof/Machine/Step.lean ====
section
/-! DEFINITION. One step of the machine: accept the next input and run it to its end (00_scope.md R5, R6;
43_orchestrator.md R121). -/

namespace Sys2Proof.Machine

/-- One step. With nothing pending the state does not change (00_scope.md R6; log entry 2). A command word is decoded
and executed, an illegal one is answered E_ILL (43_orchestrator.md R121, 60_exceptions.md R131). Hardware reset gives
the reset state and no response, and abandons a command in progress (70_reset_and_hazards.md R143; log entry 3). -/
def step (s : State) : Host.Outcome State Fault Refusal :=
  match takeInput s with
  | none => .next s
  | some (.command w, s') =>
    match decode w with
    | .ok i => exec i s'
    | .error _ => .next (rejectIll s')
  | some (.reset, s') => .next (hardwareReset s')
  | some (.resetDuring _, s') => .next (hardwareReset s')

/-- The machine with an instruction's word presented at the command port, ahead of whatever else the host presents
(log entry 1). -/
def State.withFetchWord (s : State) (nbits w : Nat) : State := presentCommand (tableWord nbits w) s

end Sys2Proof.Machine
end

