-- ==== Sys2Proof/Machine/AnyTables.lean ====
section
/-! DEFINITION. The same unit with any table set `T` in the place of the machine's: the spec's tables are parameters
(00_scope.md R8, R11; 43_orchestrator.md R121). -/

namespace Sys2Proof.Machine

/-- The effect of a command with the tables `T`. -/
def effectWith (T : Config) (i : Instr) (s : State) : State :=
  match i with
  | .nop => nopEffect s
  | .rst => rstEffect s
  | .push c => pushEffect T c s
  | .fin => finEffect T s
  | .rd r => rdEffect r s
  | .gmul a b => gmulEffect T a b s
  | .ldexp k => ldexpEffect T k s
  | .ldlog k => ldlogEffect T k s
  | .ldalf k => ldalfEffect T k s
  | .ldmap k => ldmapEffect T k s
  | .mapc c => mapcEffect T c s
  | .synd k => syndEffect T k s
  | .chk => chkEffect T s

/-- `step(S, w)` of 43_orchestrator.md R121 with the tables `T`: one command word, legal or not. -/
def wordEffectWith (T : Config) (w : Word) (s : State) : State :=
  match decode w with
  | .ok i => effectWith T i s
  | .error _ => rejectIll s

/-- The effect of one input with the tables `T`. -/
def inputEffectWith (T : Config) (x : HostInput) (s : State) : State :=
  match x with
  | .command w => wordEffectWith T w s
  | .reset => hardwareReset s
  | .resetDuring _ => hardwareReset s

/-- One step with the tables `T`. -/
def stepWith (T : Config) (s : State) : State :=
  match takeInput s with
  | none => s
  | some (x, s') => inputEffectWith T x s'

end Sys2Proof.Machine
end

