-- ==== Sys2Proof/Machine/Pseudo.lean ====
section
/-! DEFINITION. The pseudo-instructions a writer of command sequences uses (30_encoding.md R70), as the words they
expand to, and a host that presents a sequence of words. -/

namespace Sys2Proof.Machine

/-- `PUSHS "text"`: one PUSH per character, first character first (R70). -/
def pushs (text : List CharCode) : List Word := text.map (fun c => encode (.push c))

/-- The words for a text of `CHARW`-bit characters: one PUSH for a code below 256, nothing for any other, which the rule
lets the host leave out (40_mapper.md R80, 70_reset_and_hazards.md R153). -/
def pushText (T : Config) (text : List (BitVec T.charw)) : List Word :=
  pushs ((text.filter fun c => decide (c.toNat < 256)).map (BitVec.setWidth 8))

/-- `DECODE "text"`: `RST`, `PUSHS "text"`, `FIN` (R70). -/
def decodeText (text : List CharCode) : List Word := encode .rst :: (pushs text ++ [encode .fin])

/-- `GETHEX`: `RD HEXHI`, `RD HEXLO` (R70). -/
def getHex : List Word := [encode (.rd 0x02), encode (.rd 0x03)]

/-- The host presents the words of a command sequence, in order, ahead of what it presented before (20_memory.md R46). -/
def present (ws : List Word) (s : State) : State := { s with inputs := ws.map .command ++ s.inputs }

end Sys2Proof.Machine
end

