-- ==== Sys2Proof/Safety.lean ====
section
/-! DEFINITION. The terms the statements use: the same unit state, the invariants of 10_state.md R21, a run that never
stops, and the source's whole operation as a function of the text (43_orchestrator.md R119). -/

namespace Sys2Proof.Machine

/-- The unit's five items of state are the same (10_state.md R13). -/
def SameUnit (s t : State) : Prop :=
  t.ph = s.ph ∧ t.err = s.err ∧ t.cnt = s.cnt ∧ t.cw = s.cw ∧ t.id = s.id

/-- `s` with one more response given, and nothing else changed. -/
def answered (st : Status) (d : Data) (s : State) : State := { s with responses := s.responses ++ [⟨st, d⟩] }

/-- The word is answered E_ILL with data 0 in every state, and changes nothing else. -/
def IllWord (w : Word) : Prop := ∀ s : State, step (presentCommand w s) = .next (answered .eIll 0 s)

/-- `CW[12][3:0] ‖ CW[11] ‖ ... ‖ CW[0]` (10_state.md R21, 43_orchestrator.md R119). -/
def identifierOf (cw : Vector Symbol 17) : Data :=
  cw[12].extractLsb' 0 4 ++ cw[11] ++ cw[10] ++ cw[9] ++ cw[8] ++ cw[7] ++ cw[6] ++ cw[5] ++ cw[4] ++ cw[3] ++ cw[2] ++
  cw[1] ++ cw[0]

/-- The sum over the slots 0..12 of `value(CW[k]) * 32^k`, in exact arithmetic (43_orchestrator.md R108). -/
def weightedSum (cw : Vector Symbol 17) : Nat :=
  cw[0].toNat + cw[1].toNat * 32 + cw[2].toNat * 32 ^ 2 + cw[3].toNat * 32 ^ 3 + cw[4].toNat * 32 ^ 4 +
  cw[5].toNat * 32 ^ 5 + cw[6].toNat * 32 ^ 6 + cw[7].toNat * 32 ^ 7 + cw[8].toNat * 32 ^ 8 + cw[9].toNat * 32 ^ 9 +
  cw[10].toNat * 32 ^ 10 + cw[11].toNat * 32 ^ 11 + cw[12].toNat * 32 ^ 12

/-- The invariants of 10_state.md R21 with the tables `T`. (`PH` is 0, 1 or 2 by its type.) -/
structure UnitInv (T : Config) (s : State) : Prop where
  /-- `PH = FAIL` if and only if `ERR ≠ 0`. -/
  fail_iff : s.ph = .fail ↔ s.err ≠ none
  /-- `PH = DONE_OK` implies a populated, valid codeword in range. -/
  done : s.ph = .doneOk → s.cnt = 17 ∧ valid T s.cw = true ∧ s.cw[12].toNat < 16 ∧ s.id = identifierOf s.cw
  /-- `PH ≠ DONE_OK` implies `ID = 0`. -/
  id_zero : s.ph ≠ .doneOk → s.id = 0
  /-- `ERR = 1` implies `CNT ≠ 17`. -/
  too_short : s.err = some .tooShort → s.cnt ≠ 17
  /-- `ERR = 2` or `ERR = 3` implies `CNT = 17`. -/
  counted : s.err = some .checksumInvalid ∨ s.err = some .overflow → s.cnt = 17
  /-- `CNT ≤ 18`. -/
  cnt_le : s.cnt.toNat ≤ 18
  /-- A slot `CW[CWMAP[n]]` with `n ≥ CNT` is 0. -/
  unwritten : ∀ n : Fin 17, s.cnt.toNat ≤ n.val → s.cw[(T.cwmapAt n).val] = 0

/-- Every run from `s` goes on: no step of it faults or refuses (70_reset_and_hazards.md R158). -/
def SafeRun (s : State) : Prop := ∀ n : Nat, ∃ t : State, Host.Core.run Sys2Proof.core n s = .next t

/-- How many of the inputs are command words. -/
def commandCount (xs : List HostInput) : Nat :=
  (xs.filter fun x => match x with | .command _ => true | _ => false).length

/-- The symbols of the characters of a text that are in the alphabet, in order (40_mapper.md R79). -/
def survivors (T : Config) (text : List CharCode) : List Symbol := text.filterMap (mapLookup T)

/-- `C[CWMAP[n]] = v_n` for n in 0..16 (43_orchestrator.md R119). -/
def IsCodeword (T : Config) (v : List Symbol) (C : Vector Symbol 17) : Prop :=
  ∀ n : Fin 17, v[n.val]? = some C[(T.cwmapAt n).val]

/-- All four syndromes are zero (42_validator.md R96). -/
def AllSyndromesZero (T : Config) (C : Vector Symbol 17) : Prop :=
  syndrome T 1 C = 0 ∧ syndrome T 2 C = 0 ∧ syndrome T 3 C = 0 ∧ syndrome T 4 C = 0

/-- The source's form of a syndrome: `j` over 0..30, the positions 13..26 skipped, `pos = j` if `j ≤ 26`, else `j - 14`
(42_validator.md R93, R94). -/
def sourceSyndrome (T : Config) (i : Nat) (C : Vector Symbol 17) : Symbol :=
  (List.range 31).foldl (fun t j =>
    if 13 ≤ j ∧ j ≤ 26 then t
    else t ^^^ gmult T (C.toList.getD (if j ≤ 26 then j else j - 14) 0) (T.gexpAt (BitVec.ofNat 5 ((i * j) % 31)))) 0

/-- The polynomial `p` with its terms of degree `n + 4` down to 5 removed, each by an xor with a multiple of
x^5 + x^2 + 1, binary 100101 (41_field.md R90). -/
def reduceFrom : Nat → BitVec 10 → BitVec 10
  | 0, p => p
  | n + 1, p => reduceFrom n (if p.getLsbD (n + 5) then p ^^^ (37#10 <<< n) else p)

/-- Carry-less multiplication of two polynomials over GF(2) of degree at most 4, reduced modulo x^5 + x^2 + 1
(41_field.md R90). -/
def polyProduct (a b : Symbol) : Symbol :=
  let shifted (k : Nat) : BitVec 10 := if b.getLsbD k then a.setWidth 10 <<< k else 0
  (reduceFrom 5 (shifted 0 ^^^ shifted 1 ^^^ shifted 2 ^^^ shifted 3 ^^^ shifted 4)).setWidth 5

/-- The symbols of the characters of a text of `CHARW`-bit characters that are in the alphabet, in order (40_mapper.md R79,
R80). -/
def survivorsOfText (T : Config) (text : List (BitVec T.charw)) : List Symbol := text.filterMap (lookupCode T)

/-- The unit with the tables `T` after it has executed the words in order (43_orchestrator.md R121). -/
def afterWords (T : Config) (ws : List Word) (s : State) : State := ws.foldl (fun t w => wordEffectWith T w t) s

/-- Two table sets that agree on every entry an arithmetic or mapping rule reads: they may differ in `GEXP[31]` and
`GLOG[0]` (41_field.md R89). -/
def AgreeOnRead (T U : Config) : Prop :=
  T.charw = U.charw ∧ T.alpha = U.alpha ∧ T.cwmap = U.cwmap ∧ (∀ n : Symbol, n ≠ 31 → T.gexpAt n = U.gexpAt n) ∧
  (∀ a : Symbol, a ≠ 0 → T.glogAt a = U.glogAt a)

end Sys2Proof.Machine
end

