-- ==== Sys2Proof/Certificates/Slice0/Obligations.lean ====
section
/-! DEFINITION. The statements for the provers, file by file of spec/. A statement about a command says how `exec` (or,
for a word that is no command, `step`) completes: the next state is written out, so everything it does not name is
unchanged. The unit has no memory (20_memory.md R35), so no statement has a clause about memory. The responses stand in
`State.responses` and the pending inputs in `State.inputs` (log entry 1: the model's place for the two sequences of
30_encoding.md R51); the values are the rules'. Numbers that depend on table contents are for the spec's default tables
(00_scope.md R11, log entry 4). -/

open Sys2Proof Sys2Proof.Machine

/-! ## 10_state.md: state, tables, reset -/

/-- R33: the reset state, the identical unit state after hardware reset and after RST, STATUS reading 0, and the constant
contents of the four tables (R27 to R30). -/
def Obligations.ResetStateValues : Prop :=
  (State.reset.ph = .collect ∧ State.reset.err = none ∧ State.reset.cnt = 0 ∧
    (∀ k : Fin 17, State.reset.cw[k.val] = 0) ∧ State.reset.id = 0) ∧
  (∀ s : State, ∃ t, step { s with inputs := .reset :: s.inputs } = .next t ∧ SameUnit State.reset t) ∧
  (∀ s : State, ∃ t, exec .rst s = .next t ∧ SameUnit State.reset t) ∧
  (∀ s : State, SameUnit State.reset s → exec (.rd 0x00) s = .next (answered .ok 0 s)) ∧
  (config.alpha.toList.map BitVec.toNat = "23456789ABCDEFGHJKLMNPQRSTUVWXYZ".toList.map Char.toNat ∧
    config.gexp.toList.map BitVec.toNat = [1, 2, 4, 8, 16, 5, 10, 20, 13, 26, 17, 7, 14, 28, 29, 31, 27, 19, 3, 6, 12,
      24, 21, 15, 30, 25, 23, 11, 22, 9, 18, 1] ∧
    config.glog.toList.map BitVec.toNat = [0, 0, 1, 18, 2, 5, 19, 11, 3, 29, 6, 27, 20, 8, 12, 23, 4, 10, 30, 17, 7,
      22, 28, 26, 21, 25, 9, 16, 13, 14, 24, 15] ∧
    config.cwmap.toList.map Fin.val = [3, 2, 1, 0, 7, 6, 5, 4, 13, 14, 15, 16, 12, 8, 9, 10, 11])

/-- R31 conditions 1 to 5 hold of the default tables (R27 to R30; the conditions are marked derived in the spec, and
condition 5 is stated as log entry 10 says), and the default `CHARW` of 00_scope.md R8 meets its constraint. -/
def Obligations.DefaultTablesWellFormed : Prop :=
  config.WellFormed ∧ FieldAdditive config ∧ config.charw = 8 ∧ config.CharwFits

/-- R21 (marked derived in the spec): the invariants hold after reset. -/
def Obligations.InvariantAtReset : Prop := UnitInv config State.reset

/-- R21 (marked derived in the spec): every step keeps the invariants, from every state that has them. -/
def Obligations.InvariantKeptByEveryStep : Prop :=
  ∀ s t : State, UnitInv config s → step s = .next t → UnitInv config t

/-- R21 with R11 (both marked derived in the spec): the same with any table set that meets R31 conditions 1 to 4. -/
def Obligations.InvariantKeptForEveryTableSet : Prop :=
  ∀ (T : Config) (s : State), T.WellFormed → UnitInv T s → UnitInv T (stepWith T s)

/-- R16: `PH` changes only by hardware reset and RST, to COLLECT from any value, and by FIN issued in COLLECT, to DONE_OK
or FAIL. -/
def Obligations.PhaseChangesOnlyByResetRstFin : Prop :=
  (∀ s : State, ∃ t, step { s with inputs := .reset :: s.inputs } = .next t ∧ t.ph = .collect) ∧
  (∀ s : State, ∃ t, exec .rst s = .next t ∧ t.ph = .collect) ∧
  (∀ s : State, s.ph = .collect → ∃ t, exec .fin s = .next t ∧ (t.ph = .doneOk ∨ t.ph = .fail)) ∧
  (∀ (s : State) (w : Word), ∃ t, step (presentCommand w s) = .next t ∧
    (t.ph = s.ph ∨ (decode w = .ok .rst ∧ t.ph = .collect) ∨
      (decode w = .ok .fin ∧ s.ph = .collect ∧ (t.ph = .doneOk ∨ t.ph = .fail))))

/-- R21 last but one item and R136 (both marked derived in the spec): in DONE_OK and FAIL no command word but RST changes
any state. -/
def Obligations.FinishedDecodeFrozenUntilRst : Prop :=
  ∀ (s : State) (w : Word), s.ph ≠ .collect → decode w ≠ .ok .rst →
    ∃ t, step (presentCommand w s) = .next t ∧ SameUnit s t

/-- R18 and R13, column 'written by': which command may write which item. -/
def Obligations.EachItemHasItsWriters : Prop :=
  ∀ (s : State) (w : Word), ∃ t, step (presentCommand w s) = .next t ∧ t.inputs = s.inputs ∧
    (t.ph ≠ s.ph ∨ t.err ≠ s.err ∨ t.id ≠ s.id → decode w = .ok .rst ∨ decode w = .ok .fin) ∧
    (t.cnt ≠ s.cnt ∨ t.cw ≠ s.cw → decode w = .ok .rst ∨ ∃ c, decode w = .ok (.push c))

/-! ## 20_memory.md: the register space and the ports -/

/-- R38: a read has no side effect, and the state is written only by the effects of RST, PUSH and FIN: every other word,
legal or not, in any state, gives one response and changes nothing else. -/
def Obligations.OnlyRstPushFinWriteState : Prop :=
  ∀ (s : State) (w : Word), decode w ≠ .ok .rst → decode w ≠ .ok .fin → (∀ c, decode w ≠ .ok (.push c)) →
    ∃ st d, step (presentCommand w s) = .next (answered st d s)

/-- R39 and R40: the two hexadecimal registers, as 16 bytes with the highest first, are the 16 lowercase hexadecimal
digits of `ID`, most significant first. -/
def Obligations.HexViewMostSignificantDigitFirst : Prop :=
  ∀ (id : Data) (k : Nat), k < 16 →
    let character := (hexHi id ++ hexLo id).extractLsb' (8 * (15 - k)) 8
    let digit := id.toNat / 16 ^ (15 - k) % 16
    character.toNat = if digit ≤ 9 then 0x30 + digit else 0x61 + (digit - 10)

/-- 20_memory.md section 2: the string determines the identifier (an inference of the model's from R39 and R116). -/
def Obligations.HexViewDeterminesIdentifier : Prop :=
  ∀ a b : Data, hexHi a = hexHi b → hexLo a = hexLo b → a = b

/-- R46 and R51: after as many steps as there are inputs, every input has been accepted, and each command word has been
given exactly one response, behind the earlier ones. -/
def Obligations.OneResponsePerCommandInOrder : Prop :=
  ∀ s : State, ∃ t rs, Host.Core.run Sys2Proof.core s.inputs.length s = .next t ∧ t.inputs = [] ∧
    t.responses = s.responses ++ rs ∧ rs.length = commandCount s.inputs

/-! ## 30_encoding.md: words, decoder, statuses -/

/-- Sections 2 and 7: decoding the word of a well-formed command gives that command, at every operand value. -/
def Obligations.DecodeOfEncodeIsIdentity : Prop := ∀ i : Instr, i.wf = true → decode (encode i) = .ok i

/-- Sections 2 and 7: a word that decodes is the word of the well-formed command it decodes to, and of no other. -/
def Obligations.EncodeOfDecodeIsIdentity : Prop :=
  ∀ (w : Word) (i : Instr), decode w = .ok i → i.wf = true ∧ encode i = w

/-- R54 to R59: the words of the opcode map as numbers. -/
def Obligations.CommandWordsOfOpcodeMap : Prop :=
  (encode .nop).toNat = 0x0000 ∧ (encode .rst).toNat = 0x1000 ∧ (encode .fin).toNat = 0x3000 ∧
  (encode .chk).toNat = 0x9000 ∧
  (∀ c : CharCode, (encode (.push c)).toNat = 0x2000 + c.toNat ∧ (encode (.mapc c)).toNat = 0x7000 + c.toNat) ∧
  (∀ r : BitVec 6, (encode (.rd r)).toNat = 0x4000 + r.toNat) ∧
  (∀ a b : Symbol, (encode (.gmul a b)).toNat = 0x5000 + 32 * a.toNat + b.toNat) ∧
  (∀ i : Symbol, (encode (.ldexp i)).toNat = 0x6000 + i.toNat ∧ (encode (.ldlog i)).toNat = 0x6020 + i.toNat ∧
    (encode (.ldalf i)).toNat = 0x6040 + i.toNat ∧ (encode (.ldmap i)).toNat = 0x6060 + i.toNat) ∧
  (∀ c : BitVec 3, (encode (.synd c)).toNat = 0x8000 + c.toNat)

/-- Words of 30_encoding.md R69 and 95_test_vectors.md V13 with the commands they decode to (a sanity check). -/
def Obligations.SampleWordsDecode : Prop :=
  decode 0x204B = .ok (.push 0x4B) ∧ decode 0x202D = .ok (.push 0x2D) ∧ decode 0x50F3 = .ok (.gmul 7 19) ∧
  decode 0x401C = .ok (.rd 0x1C) ∧ decode 0x6070 = .ok (.ldmap 16) ∧ decode 0x8003 = .ok (.synd 3) ∧
  decode 0x603F = .ok (.ldlog 31) ∧ decode 0x605F = .ok (.ldalf 31) ∧ decode 0x601F = .ok (.ldexp 31) ∧
  decode 0x70FF = .ok (.mapc 0xFF) ∧ decode 0x9000 = .ok .chk ∧ decode 0x3000 = .ok .fin

/-- R63: a word with a reserved opcode is rejected with E_ILL and writes no state, whatever its low 12 bits; the all-zeros
word is NOP. -/
def Obligations.ReservedOpcodesRejected : Prop :=
  (∀ w : Word, 0xA ≤ (opField w).toNat → IllWord w) ∧ decode 0x0000 = .ok .nop

/-- R64: a word with a defined opcode and a non-zero bit where its format reserves it is rejected with E_ILL and writes no
state. -/
def Obligations.ReservedBitsRejected : Prop :=
  ∀ w : Word,
    (opField w ∈ [0x0#4, 0x1#4, 0x3#4, 0x9#4] → w.extractLsb' 0 12 ≠ 0 → IllWord w) ∧
    (opField w ∈ [0x2#4, 0x7#4] → w.extractLsb' 8 4 ≠ 0 → IllWord w) ∧
    (opField w = 0x4 → w.extractLsb' 6 6 ≠ 0 → IllWord w) ∧
    (opField w = 0x5 → w.extractLsb' 10 2 ≠ 0 → IllWord w) ∧
    (opField w = 0x6 → w.extractLsb' 7 5 ≠ 0 → IllWord w) ∧
    (opField w = 0x8 → w.extractLsb' 3 9 ≠ 0 → IllWord w)

/-- R65: of the words with a defined opcode and zero reserved bits, exactly LDMAP 17..31, SYND 0, 5, 6, 7 and RD of a
reserved number are rejected with E_ILL and no state written; every other one is a command. -/
def Obligations.ReservedOperandsRejected : Prop :=
  ∀ w : Word, (opField w).toNat ≤ 0x9 → decode w ≠ .error .reservedBits →
    let n := w.toNat
    let reserved := (0x6071 ≤ n ∧ n ≤ 0x607F) ∨ n = 0x8000 ∨ (0x8005 ≤ n ∧ n ≤ 0x8007) ∨
      (0x4004 ≤ n ∧ n ≤ 0x400F) ∨ (0x4021 ≤ n ∧ n ≤ 0x403F)
    (reserved → IllWord w) ∧ (¬ reserved → ∃ i, decode w = .ok i)

/-- R66 (marked derived in the spec): exactly 1678 of the 65,536 words are legal: the words of twelve disjoint ranges, each
given with its first word and its size. -/
def Obligations.LegalWordCount : Prop :=
  let ranges : List (Nat × Nat) := [(0x0000, 1), (0x1000, 1), (0x2000, 256), (0x3000, 1), (0x4000, 4), (0x4010, 17),
    (0x5000, 1024), (0x6000, 96), (0x6060, 17), (0x7000, 256), (0x8001, 4), (0x9000, 1)]
  (∀ w : Word, (∃ i, decode w = .ok i) ↔ ∃ r ∈ ranges, r.1 ≤ w.toNat ∧ w.toNat < r.1 + r.2) ∧
  ranges.Pairwise (fun r q => r.1 + r.2 ≤ q.1) ∧ (ranges.map Prod.snd).sum = 1678

/-- R61: the codes; codes 6 and 7 never; which commands produce which status; data 0 with every non-zero status; the codes
1 to 3 equal the value FIN leaves in `ERR`. -/
def Obligations.StatusCodesAndTheirProducers : Prop :=
  (Status.code .ok = 0 ∧ Status.code .eLen = 1 ∧ Status.code .eCsum = 2 ∧ Status.code .eOvf = 3 ∧
    Status.code .eIll = 4 ∧ Status.code .eState = 5 ∧ ∀ st : Status, st.code.toNat ≤ 5) ∧
  (∀ i : Instr, i.wf = true → ∃ s d t, exec i s = .next t ∧ t.responses = s.responses ++ [⟨.ok, d⟩]) ∧
  (∀ (w : Word) (e : Illegal), decode w = .error e → IllWord w) ∧
  (∀ (i : Instr) (s : State), i.wf = true → ∃ r t, exec i s = .next t ∧ t.responses = s.responses ++ [r] ∧
    (r.st ≠ .ok → r.data = 0) ∧ r.st ≠ .eIll ∧
    (r.st = .eLen ∨ r.st = .eCsum ∨ r.st = .eOvf → i = .fin ∧ r.st.code.toNat = (errBits t.err).toNat) ∧
    (r.st = .eState → i = .fin ∨ i = .chk ∨ (∃ c, i = .push c) ∨ (∃ r, i = .rd r) ∨ ∃ c, i = .synd c))

/-! ## 40_mapper.md: MAPC, LDALF, LDMAP, PUSH -/

/-- R72: a code hits only on an entry exactly equal to it; with the default alphabet exactly 32 codes hit, every other
misses. -/
def Obligations.MapcHitsExactlyTheAlphabet : Prop :=
  ∀ (s : State) (c : CharCode), ∃ d, exec (.mapc c) s = .next (answered .ok d s) ∧
    (d.getLsbD 5 = true → config.alphaAt (d.setWidth 5) = c) ∧
    (d.getLsbD 5 = true ↔ (0x32 ≤ c.toNat ∧ c.toNat ≤ 0x39) ∨ (0x41 ≤ c.toNat ∧ c.toNat ≤ 0x48) ∨
      (0x4A ≤ c.toNat ∧ c.toNat ≤ 0x4E) ∨ (0x50 ≤ c.toNat ∧ c.toNat ≤ 0x5A))

/-- R73: `MAPC ALPHA[i]` answers bit 5 set and `i`, `MAPC` of any other code answers 0, in every state; nothing is written;
its words, and the malformed ones; the rule's examples. -/
def Obligations.MapcCommand : Prop :=
  (∀ (s : State) (i : Symbol), exec (.mapc (config.alphaAt i)) s = .next (answered .ok (BitVec.ofNat 64 (0x20 + i.toNat)) s)) ∧
  (∀ (s : State) (c : CharCode), (∀ i, config.alphaAt i ≠ c) → exec (.mapc c) s = .next (answered .ok 0 s)) ∧
  (∀ c : CharCode, decode (BitVec.ofNat 16 (0x7000 + c.toNat)) = .ok (.mapc c)) ∧
  (∀ w : Word, opField w = 0x7 → w.extractLsb' 8 4 ≠ 0 → IllWord w) ∧
  (∀ e ∈ [(0x32#8, 0x20#64), (0x5A, 0x3F), (0x4B, 0x31), (0x49, 0), (0x61, 0), (0x2D, 0)], ∀ s : State,
    exec (.mapc e.1) s = .next (answered .ok e.2 s))

/-- R74, R75, R85, R86: the four table loads answer the entry, in every state, and write nothing; their words; LDMAP of
17..31 is E_ILL. The entries are those of R27 to R30. With it the sentence that R74 marks derived (from R71 and R31): "Law:
`MapLookup(ALPHA[i]) = (1, i)` for every i". -/
def Obligations.TableLoadCommands : Prop :=
  (∀ (s : State) (i : Symbol), ∃ n, [1, 2, 4, 8, 16, 5, 10, 20, 13, 26, 17, 7, 14, 28, 29, 31, 27, 19, 3, 6, 12, 24, 21,
      15, 30, 25, 23, 11, 22, 9, 18, 1][i.toNat]? = some n ∧
    exec (.ldexp i) s = .next (answered .ok (BitVec.ofNat 64 n) s)) ∧
  (∀ (s : State) (i : Symbol), ∃ n, [0, 0, 1, 18, 2, 5, 19, 11, 3, 29, 6, 27, 20, 8, 12, 23, 4, 10, 30, 17, 7, 22, 28, 26,
      21, 25, 9, 16, 13, 14, 24, 15][i.toNat]? = some n ∧
    exec (.ldlog i) s = .next (answered .ok (BitVec.ofNat 64 n) s)) ∧
  (∀ (s : State) (i : Symbol), ∃ n, ("23456789ABCDEFGHJKLMNPQRSTUVWXYZ".toList.map Char.toNat)[i.toNat]? = some n ∧
    exec (.ldalf i) s = .next (answered .ok (BitVec.ofNat 64 n) s) ∧
    mapLookup config (config.alphaAt i) = some i) ∧
  (∀ (s : State) (i : Symbol), i.toNat ≤ 16 →
    ∃ n, [3, 2, 1, 0, 7, 6, 5, 4, 13, 14, 15, 16, 12, 8, 9, 10, 11][i.toNat]? = some n ∧
    exec (.ldmap i) s = .next (answered .ok (BitVec.ofNat 64 n) s)) ∧
  (∀ i : Symbol, decode (BitVec.ofNat 16 (0x6000 + i.toNat)) = .ok (.ldexp i) ∧
    decode (BitVec.ofNat 16 (0x6020 + i.toNat)) = .ok (.ldlog i) ∧
    decode (BitVec.ofNat 16 (0x6040 + i.toNat)) = .ok (.ldalf i)) ∧
  (∀ i : Symbol, (i.toNat ≤ 16 → decode (BitVec.ofNat 16 (0x6060 + i.toNat)) = .ok (.ldmap i)) ∧
    (17 ≤ i.toNat → IllWord (BitVec.ofNat 16 (0x6060 + i.toNat))))

/-- R76: PUSH in COLLECT stores a valid character's symbol in slot `CWMAP[CNT]` and counts it, stores nothing from the
eighteenth on while the count saturates at 18, drops any other character without a trace, and is E_STATE outside COLLECT;
its words, and the malformed ones; the worked example. -/
def Obligations.PushCommand : Prop :=
  (∀ (s : State) (n : Fin 17) (v : Symbol), s.ph = .collect → s.cnt.toNat = n.val →
    exec (.push (config.alphaAt v)) s = .next (answered .ok (BitVec.ofNat 64 (0x20 + v.toNat))
      { s with cw := s.cw.set (config.cwmapAt n) v, cnt := BitVec.ofNat 5 (n.val + 1) })) ∧
  (∀ (s : State) (v : Symbol), s.ph = .collect → s.cnt.toNat = 17 →
    exec (.push (config.alphaAt v)) s = .next (answered .ok (BitVec.ofNat 64 (0x20 + v.toNat)) { s with cnt := 18 })) ∧
  (∀ (s : State) (v : Symbol), s.ph = .collect → 18 ≤ s.cnt.toNat →
    exec (.push (config.alphaAt v)) s = .next (answered .ok (BitVec.ofNat 64 (0x20 + v.toNat)) s)) ∧
  (∀ (s : State) (c : CharCode), s.ph = .collect → (∀ i, config.alphaAt i ≠ c) →
    exec (.push c) s = .next (answered .ok 0 s)) ∧
  (∀ (s : State) (c : CharCode), s.ph ≠ .collect → exec (.push c) s = .next (answered .eState 0 s)) ∧
  (∀ c : CharCode, decode (BitVec.ofNat 16 (0x2000 + c.toNat)) = .ok (.push c)) ∧
  (∀ w : Word, opField w = 0x2 → w.extractLsb' 8 4 ≠ 0 → IllWord w) ∧
  exec (.push 0x4B) State.reset = .next (answered .ok 0x31 { State.reset with cw := State.reset.cw.set 3 17, cnt := 1 })

/-- R78: a valid character beyond the seventeenth is stored nowhere, leaves the count at 18 for good, is still
reported, and the input then fails the length check at FIN. -/
def Obligations.SurplusCharactersFailTheLengthCheck : Prop :=
  ∀ (s : State) (v : Symbol), s.ph = .collect → s.cnt = 17 ∨ s.cnt = 18 →
    ∃ t u, exec (.push (config.alphaAt v)) s = .next t ∧ t.cw = s.cw ∧ t.cnt = 18 ∧ t.ph = .collect ∧
      t.responses = s.responses ++ [⟨.ok, BitVec.ofNat 64 (0x20 + v.toNat)⟩] ∧
      exec .fin t = .next u ∧ u.cw = s.cw ∧ u.cnt = 18 ∧ u.err = some .tooShort ∧ u.ph = .fail ∧
      u.responses = t.responses ++ [⟨.eLen, 0⟩]

/-- R79 (marked derived in the spec): after RST and PUSH of the characters of any text, the count and the slots are those of
the text's valid characters alone. -/
def Obligations.SlotsAfterPushingAnyText : Prop :=
  ∀ (s : State) (text : List CharCode), ∃ t,
    Host.Core.run Sys2Proof.core (text.length + 1) (present (encode .rst :: pushs text) s) = .next t ∧
    t.inputs = s.inputs ∧ t.ph = .collect ∧ t.cnt.toNat = min (survivors config text).length 18 ∧
    ∀ n : Fin 17, t.cw[(config.cwmapAt n).val] = (survivors config text).getD n.val 0

/-! ## 41_field.md: GMUL, the field laws -/

/-- R84 with R81: `GMUL a, b` answers 0 if an operand is 0 and else `GEXP[(GLOG[a] + GLOG[b]) mod 31]`, in every state, and
writes nothing; its words, and the malformed ones; the rule's examples. -/
def Obligations.GmulCommand : Prop :=
  (∀ (s : State) (a b : Symbol), a = 0 ∨ b = 0 → exec (.gmul a b) s = .next (answered .ok 0 s)) ∧
  (∀ (s : State) (a b : Symbol), a ≠ 0 → b ≠ 0 → ∃ n : Symbol,
    n.toNat = ((config.glogAt a).toNat + (config.glogAt b).toNat) % 31 ∧
    exec (.gmul a b) s = .next (answered .ok (BitVec.ofNat 64 (config.gexpAt n).toNat) s)) ∧
  (∀ a b : Symbol, decode (BitVec.ofNat 16 (0x5000 + 32 * a.toNat + b.toNat)) = .ok (.gmul a b)) ∧
  (∀ w : Word, opField w = 0x5 → w.extractLsb' 10 2 ≠ 0 → IllWord w) ∧
  (∀ e ∈ [(0#5, 5#5, 0#64), (1, 1, 1), (2, 16, 5), (18, 2, 1), (31, 31, 18), (7, 19, 22)], ∀ s : State,
    exec (.gmul e.1 e.2.1) s = .next (answered .ok e.2.2 s))

/-- R90 (marked derived in the spec): with the default tables GMUL answers the carry-less product reduced modulo
x^5 + x^2 + 1. -/
def Obligations.GmulIsPolynomialProduct : Prop :=
  ∀ (s : State) (a b : Symbol), exec (.gmul a b) s = .next (answered .ok ((polyProduct a b).setWidth 64) s)

/-- R87 (marked derived in the spec), the laws that need R31 conditions 2 and 3 only, for every such table set. -/
def Obligations.FieldProductLaws : Prop :=
  ∀ T : Config, T.WellFormed → ∀ a b c : Symbol,
    gmult T a 0 = 0 ∧ gmult T 0 a = 0 ∧ gmult T a b = gmult T b a ∧ gmult T a (T.gexpAt 0) = a ∧
    (a ≠ 0 → b ≠ 0 → gmult T a b ≠ 0) ∧ (a ≠ 0 → gmult T a b = gmult T a c → b = c) ∧
    (∀ m n k : Symbol, m ≠ 31 → n ≠ 31 → k.toNat = (m.toNat + n.toNat) % 31 →
      gmult T (T.gexpAt m) (T.gexpAt n) = T.gexpAt k) ∧
    gmult T (gmult T a b) c = gmult T a (gmult T b c)

/-- R87 (marked derived in the spec): the product distributes over xor, under R31 condition 5 (log entry 10). -/
def Obligations.FieldProductDistributes : Prop :=
  ∀ T : Config, T.WellFormed → FieldAdditive T → ∀ a b c : Symbol,
    gmult T a (b ^^^ c) = gmult T a b ^^^ gmult T a c

/-- R89 (marked derived in the spec): `GEXP[31]` and `GLOG[0]` affect no command but LDEXP 31 and LDLOG 0. -/
def Obligations.PlaceholderEntriesReadOnlyByTheirLoads : Prop :=
  ∀ (T U : Config) (i : Instr) (s : State), AgreeOnRead T U →
    i ≠ .ldexp 31 → i ≠ .ldlog 0 → effectWith T i s = effectWith U i s

/-! ## 42_validator.md: SYND, CHK, the code -/

/-- R94 with R93: the evaluation points of the slots; the source's form of a syndrome (31 evaluation points, 14 of them
skipped, compacted positions) and the slot-side form are the same, for every table set. -/
def Obligations.SyndromeEqualsSourceForm : Prop :=
  (∀ k : Fin 17, (k.val ≤ 12 → jof k = k.val) ∧ (13 ≤ k.val → jof k = k.val + 14)) ∧
  ∀ (T : Config) (i : Nat) (C : Vector Symbol 17), syndrome T i C = sourceSyndrome T i C

/-- R97: SYND answers the syndrome when `CNT = 17`, else E_STATE, and writes nothing; 0 in DONE_OK; its words; the
worked example. -/
def Obligations.SyndCommand : Prop :=
  (∀ (s : State) (c : BitVec 3), 1 ≤ c.toNat → c.toNat ≤ 4 → s.cnt = 17 →
    exec (.synd c) s = .next (answered .ok (BitVec.ofNat 64 (sourceSyndrome config c.toNat s.cw).toNat) s)) ∧
  (∀ (s : State) (c : BitVec 3), 1 ≤ c.toNat → c.toNat ≤ 4 → s.cnt ≠ 17 →
    exec (.synd c) s = .next (answered .eState 0 s)) ∧
  (∀ (s : State) (c : BitVec 3), 1 ≤ c.toNat → c.toNat ≤ 4 → UnitInv config s → s.ph = .doneOk →
    exec (.synd c) s = .next (answered .ok 0 s)) ∧
  (∀ c : BitVec 3, 1 ≤ c.toNat → c.toNat ≤ 4 → decode (BitVec.ofNat 16 (0x8000 + c.toNat)) = .ok (.synd c)) ∧
  (∀ w : Word, opField w = 0x8 → w.extractLsb' 3 9 ≠ 0 ∨ sField w ∈ [0#3, 5#3, 6#3, 7#3] → IllWord w) ∧
  (let C : Vector Symbol 17 := #v[1, 0, 0, 0, 0, 0, 0, 0, 0, 0, 0, 1, 0, 17, 9, 6, 30]
   (List.map (fun i => (syndrome config i C).toNat) [1, 2, 3, 4]) = [7, 21, 4, 28])

/-- R98 with R96: CHK answers 1 when all four syndromes are zero and 0 when one is not, when `CNT = 17`; else E_STATE; it
writes nothing; its word, and the malformed ones; the worked example. -/
def Obligations.ChkCommand : Prop :=
  (∀ s : State, s.cnt = 17 → AllSyndromesZero config s.cw → exec .chk s = .next (answered .ok 1 s)) ∧
  (∀ s : State, s.cnt = 17 → ¬ AllSyndromesZero config s.cw → exec .chk s = .next (answered .ok 0 s)) ∧
  (∀ s : State, s.cnt ≠ 17 → exec .chk s = .next (answered .eState 0 s)) ∧
  decode 0x9000 = .ok .chk ∧
  (∀ w : Word, opField w = 0x9 → w.extractLsb' 0 12 ≠ 0 → IllWord w) ∧
  AllSyndromesZero config #v[1, 0, 0, 0, 0, 0, 0, 0, 0, 0, 0, 0, 0, 17, 9, 6, 30] ∧
  ¬ AllSyndromesZero config #v[1, 0, 0, 0, 0, 0, 0, 0, 0, 0, 0, 1, 0, 17, 9, 6, 30]

/-- R100 (marked derived in the spec): the syndromes are linear over slot-wise xor, under R31 condition 5. -/
def Obligations.SyndromesAreLinear : Prop :=
  ∀ T : Config, T.WellFormed → FieldAdditive T → ∀ (i : Nat) (C D : Vector Symbol 17),
    syndrome T i (Vector.zipWith (fun x y => x ^^^ y) C D) = syndrome T i C ^^^ syndrome T i D

/-- R104 (marked derived in the spec): the all-zero codeword is valid for every table set. -/
def Obligations.ZeroCodewordValid : Prop := ∀ T : Config, valid T (Vector.replicate 17 0) = true

/-- R101 (marked derived in the spec): a change of exactly one slot of a valid codeword moves every one of the four
syndromes off zero, so the changed codeword is invalid, for every table set that meets R31 conditions 1 to 5. -/
def Obligations.SingleSymbolErrorsDetected : Prop :=
  ∀ T : Config, T.WellFormed → FieldAdditive T → ∀ (C : Vector Symbol 17) (k : Fin 17) (x : Symbol),
    valid T C = true → x ≠ C[k.val] →
    valid T (C.set k x) = false ∧
    ∀ i ∈ [1, 2, 3, 4], syndrome T i (C.set k x) = gmult T (C[k.val] ^^^ x) (coeff T i k) ∧ syndrome T i (C.set k x) ≠ 0

/-- R102: the check is not strengthened: two valid codewords that differ in exactly the five slots 0, 13, 14, 15, 16. -/
def Obligations.FiveSymbolChangeCanPass : Prop :=
  let C : Vector Symbol 17 := #v[1, 0, 0, 0, 0, 0, 0, 0, 0, 0, 0, 0, 0, 17, 9, 6, 30]
  valid config (Vector.replicate 17 0) = true ∧ valid config C = true ∧
  (slots.filter fun k => C[k.val] ≠ 0) = [0, 13, 14, 15, 16]

/-! ## 43_orchestrator.md: NOP, RST, FIN, RD, the whole operation -/

/-- R105: NOP answers OK with data 0 in every state and writes nothing; its word, and the malformed ones. -/
def Obligations.NopCommand : Prop :=
  (∀ s : State, exec .nop s = .next (answered .ok 0 s)) ∧ decode 0x0000 = .ok .nop ∧
  (∀ w : Word, opField w = 0x0 → w.extractLsb' 0 12 ≠ 0 → IllWord w)

/-- R106: RST writes the whole reset state from any state and answers OK with data 0; it is the only way to leave DONE_OK
or FAIL; its word, and the malformed ones. -/
def Obligations.RstCommand : Prop :=
  (∀ s : State, exec .rst s = .next
    ⟨.collect, none, 0, Vector.replicate 17 0, 0, s.inputs, s.responses ++ [⟨.ok, 0⟩]⟩) ∧
  (∀ (s : State) (w : Word), s.ph ≠ .collect →
    ∃ t, step (presentCommand w s) = .next t ∧ (t.ph ≠ s.ph → decode w = .ok .rst)) ∧
  decode 0x1000 = .ok .rst ∧
  (∀ w : Word, opField w = 0x1 → w.extractLsb' 0 12 ≠ 0 → IllWord w)

/-- R107 and R111: FIN in COLLECT makes the length check, then the checksum, then the range check on the exact
sum; the first that fails decides the kind, sets FAIL and `ERR` and answers it with data 0; otherwise `ID` is the sum and
the phase DONE_OK. Outside COLLECT it is E_STATE. Its word, and the malformed ones; the worked example's codeword. -/
def Obligations.FinCommand : Prop :=
  (∀ s : State, s.ph ≠ .collect → exec .fin s = .next (answered .eState 0 s)) ∧
  (∀ s : State, s.ph = .collect → s.cnt ≠ 17 →
    exec .fin s = .next (answered .eLen 0 { s with ph := .fail, err := some .tooShort })) ∧
  (∀ s : State, s.ph = .collect → s.cnt = 17 → ¬ AllSyndromesZero config s.cw →
    exec .fin s = .next (answered .eCsum 0 { s with ph := .fail, err := some .checksumInvalid })) ∧
  (∀ s : State, s.ph = .collect → s.cnt = 17 → AllSyndromesZero config s.cw → 2 ^ 64 ≤ weightedSum s.cw →
    exec .fin s = .next (answered .eOvf 0 { s with ph := .fail, err := some .overflow })) ∧
  (∀ s : State, s.ph = .collect → s.cnt = 17 → AllSyndromesZero config s.cw → weightedSum s.cw < 2 ^ 64 →
    exec .fin s = .next (answered .ok (BitVec.ofNat 64 (weightedSum s.cw))
      { s with ph := .doneOk, id := BitVec.ofNat 64 (weightedSum s.cw) })) ∧
  decode 0x3000 = .ok .fin ∧
  (∀ w : Word, opField w = 0x3 → w.extractLsb' 0 12 ≠ 0 → IllWord w) ∧
  (∀ s : State, s.ph = .collect → s.cnt = 17 → s.cw = #v[1, 0, 0, 0, 0, 0, 0, 0, 0, 0, 0, 0, 0, 17, 9, 6, 30] →
    exec .fin s = .next (answered .ok 1 { s with ph := .doneOk, id := 1 }))

/-- R108: the 65-bit accumulator holds the sum of `value(CW[k]) * 32^k` over the slots 0..12 exactly, whatever the parity
slots hold. -/
def Obligations.AccumulatorIsExact : Prop :=
  (∀ C : Vector Symbol 17, (accumulate C).toNat = weightedSum C) ∧
  (∀ (C : Vector Symbol 17) (k : Fin 17) (x : Symbol), 13 ≤ k.val → accumulate (C.set k x) = accumulate C)

/-- R109 and R110 (both marked derived in the spec): the accumulator is the concatenation of the 13 data slots, and the
overflow test is `CW[12] ≥ 16`. -/
def Obligations.AccumulatorIsConcatenation : Prop :=
  ∀ C : Vector Symbol 17,
    (∀ k : Fin 13, (accumulate C).extractLsb' (5 * k.val) 5 = C[k.val]) ∧
    (overflows (accumulate C) = true ↔ 16 ≤ C[12].toNat) ∧ (2 ^ 64 ≤ weightedSum C ↔ 16 ≤ C[12].toNat) ∧
    (C[12].toNat < 16 → BitVec.ofNat 64 (weightedSum C) = identifierOf C)

/-- R114: STATUS and CW0..CW16 are read in every state; ID, HEXHI and HEXLO in DONE_OK, and are E_STATE in
any other phase; a read writes nothing; the words of legal register numbers, reserved numbers and malformed words. -/
def Obligations.RdCommand : Prop :=
  (∀ s : State, exec (.rd 0x00) s = .next (answered .ok (BitVec.ofNat 64
    (s.cnt.toNat * 256 + (if s.cnt = 17 then 16 else 0) + (errBits s.err).toNat * 4 + s.ph.bits.toNat)) s)) ∧
  (∀ s : State, s.ph = .doneOk → exec (.rd 0x01) s = .next (answered .ok s.id s) ∧
    exec (.rd 0x02) s = .next (answered .ok (hexHi s.id) s) ∧ exec (.rd 0x03) s = .next (answered .ok (hexLo s.id) s)) ∧
  (∀ s : State, s.ph ≠ .doneOk → exec (.rd 0x01) s = .next (answered .eState 0 s) ∧
    exec (.rd 0x02) s = .next (answered .eState 0 s) ∧ exec (.rd 0x03) s = .next (answered .eState 0 s)) ∧
  (∀ (s : State) (k : Fin 17), exec (.rd (BitVec.ofNat 6 (0x10 + k.val))) s =
    .next (answered .ok (BitVec.ofNat 64 s.cw[k.val].toNat) s)) ∧
  (∀ r : BitVec 6, r.toNat ≤ 0x03 ∨ (0x10 ≤ r.toNat ∧ r.toNat ≤ 0x20) →
    decode (BitVec.ofNat 16 (0x4000 + r.toNat)) = .ok (.rd r)) ∧
  (∀ r : BitVec 6, (0x04 ≤ r.toNat ∧ r.toNat ≤ 0x0F) ∨ 0x21 ≤ r.toNat → IllWord (BitVec.ofNat 16 (0x4000 + r.toNat))) ∧
  (∀ w : Word, opField w = 0x4 → w.extractLsb' 6 6 ≠ 0 → IllWord w)

/-- R116 and R117: each character of HEXHI and HEXLO is the ASCII code of a lowercase hexadecimal digit of its four bits of
`ID`, `'0'..'9'` then `'a'..'f'`; the worked examples. -/
def Obligations.HexRegistersAreHexChars : Prop :=
  (∀ (id : Data) (k : Nat), k < 8 →
    (hexHi id).extractLsb' (56 - 8 * k) 8 = hexDigit (id.extractLsb' (60 - 4 * k) 4) ∧
    (hexLo id).extractLsb' (56 - 8 * k) 8 = hexDigit (id.extractLsb' (28 - 4 * k) 4)) ∧
  (List.map (fun n => (hexDigit (BitVec.ofNat 4 n)).toNat) (List.range 16) =
    "0123456789abcdef".toList.map Char.toNat) ∧
  hexHi 0 = 0x3030303030303030 ∧ hexLo 0 = 0x3030303030303030 ∧
  hexHi 0xFFFFFFFFFFFFFFFF = 0x6666666666666666 ∧ hexLo 0xFFFFFFFFFFFFFFFF = 0x6666666666666666 ∧
  hexHi 0x18226A07A589DD4A = 0x3138323236613037 ∧ hexLo 0x18226A07A589DD4A = 0x6135383964643461

/-- R119 (marked derived in the spec): RST, one PUSH per character of any text, FIN, and on success RD HEXHI and RD HEXLO
compute the source's `decodeAddress` of the text, from every state. -/
def Obligations.DecodeOfAnyText : Prop :=
  ∀ (s : State) (text : List CharCode), ∃ t,
    Host.Core.run Sys2Proof.core (text.length + 2) (present (decodeText text) s) = .next t ∧ t.inputs = s.inputs ∧
    ((survivors config text).length ≠ 17 → t.err = some .tooShort ∧ t.responses.getLast? = some ⟨.eLen, 0⟩) ∧
    ((survivors config text).length = 17 → ∃ C, IsCodeword config (survivors config text) C ∧ t.cw = C ∧
      (¬ AllSyndromesZero config C → t.err = some .checksumInvalid ∧ t.responses.getLast? = some ⟨.eCsum, 0⟩) ∧
      (AllSyndromesZero config C → 16 ≤ C[12].toNat →
        t.err = some .overflow ∧ t.responses.getLast? = some ⟨.eOvf, 0⟩) ∧
      (AllSyndromesZero config C → C[12].toNat < 16 → t.responses.getLast? = some ⟨.ok, identifierOf C⟩ ∧
        Host.Core.run Sys2Proof.core 2 (present getHex t) =
          .next { t with responses := t.responses ++ [⟨.ok, hexHi (identifierOf C)⟩, ⟨.ok, hexLo (identifierOf C)⟩] }))

/-- R118 and R121 (both marked derived in the spec): what a command does and answers depends on the unit's five items
alone, not on earlier responses or on what the host presents next. -/
def Obligations.CommandsDependOnUnitStateOnly : Prop :=
  ∀ (i : Instr) (s s' : State), SameUnit s s' → ∃ r t t', exec i s = .next t ∧ exec i s' = .next t' ∧ SameUnit t t' ∧
    t.responses = s.responses ++ [r] ∧ t'.responses = s'.responses ++ [r] ∧ t.inputs = s.inputs ∧ t'.inputs = s'.inputs

/-- 43_orchestrator.md section 8 (R121 is marked derived in the spec; the sequence of inputs is the model's, log entry 1):
when the next input is a word that decodes to a command, a step is that command's meaning in the state with the word
accepted. -/
def Obligations.StepRunsTheDecodedCommand : Prop :=
  ∀ (s : State) (w : Word) (rest : List HostInput) (i : Instr), s.inputs = .command w :: rest → decode w = .ok i →
    step s = exec i { s with inputs := rest }

/-- 43_orchestrator.md section 8 and 00_scope.md R11 (marked derived in the spec): the machine is the unit of R121 with the
default tables. -/
def Obligations.MachineIsTheUnitWithDefaultTables : Prop :=
  (∀ s : State, step s = .next (stepWith config s)) ∧
  (∀ (i : Instr) (s : State), exec i s = .next (effectWith config i s))

/-! ## 60_exceptions.md: errors -/

/-- R131: a word that does not decode is answered E_ILL with data 0 in every phase; nothing is written. -/
def Obligations.IllegalWordsAnsweredEIll : Prop := ∀ (w : Word) (e : Illegal), decode w = .error e → IllWord w

/-- 30_encoding.md R65 read for a command term instead of a word (the model's choice, log entry 11): a command whose operand
is reserved, which no word decodes to, is answered E_ILL and writes nothing. -/
def Obligations.ReservedOperandTermsAnsweredEIll : Prop :=
  ∀ (i : Instr) (s : State), i.wf = false → exec i s = .next (answered .eIll 0 s)

/-- R132: E_STATE is answered exactly in the listed cases, and nothing is written then. -/
def Obligations.StateErrorsExactlyAsListed : Prop :=
  ∀ (i : Instr) (s : State), i.wf = true →
    ((∃ t d, exec i s = .next t ∧ t.responses = s.responses ++ [⟨.eState, d⟩]) ↔
      ((∃ c, i = .push c) ∨ i = .fin) ∧ s.ph ≠ .collect ∨
      (i = .rd 0x01 ∨ i = .rd 0x02 ∨ i = .rd 0x03) ∧ s.ph ≠ .doneOk ∨
      ((∃ c, i = .synd c) ∨ i = .chk) ∧ s.cnt ≠ 17) ∧
    (∀ t d, exec i s = .next t → t.responses = s.responses ++ [⟨.eState, d⟩] → t = answered .eState 0 s)

/-- R138: outside DONE_OK no response and no later state item depends on `ID`, so the identifier cannot be read; and `ID`
is 0 there in every state that has the invariants of R21 (an invariant the spec marks derived). -/
def Obligations.NoPartialResult : Prop :=
  (∀ (i : Instr) (s : State) (x : Data), s.ph ≠ .doneOk → ∃ t t' r, exec i s = .next t ∧
    exec i { s with id := x } = .next t' ∧ t.responses = s.responses ++ [r] ∧ t'.responses = s.responses ++ [r] ∧
    t.ph = t'.ph ∧ t.err = t'.err ∧ t.cnt = t'.cnt ∧ t.cw = t'.cw) ∧
  (∀ s : State, UnitInv config s → s.ph ≠ .doneOk → s.id = 0)

/-! ## 70_reset_and_hazards.md: reset, progress -/

/-- R143 and R144: hardware reset, with or without a command in progress, leaves the reset state and gives no response; the
unit state is the one RST leaves. (That a reset stands in the sequence of inputs is log entry 3.) -/
def Obligations.HardwareResetGivesResetState : Prop :=
  (∀ (s : State) (rest : List HostInput), s.inputs = .reset :: rest →
    step s = .next ⟨.collect, none, 0, Vector.replicate 17 0, 0, rest, s.responses⟩) ∧
  (∀ (s : State) (w : Word) (rest : List HostInput), s.inputs = .resetDuring w :: rest →
    step s = .next ⟨.collect, none, 0, Vector.replicate 17 0, 0, rest, s.responses⟩) ∧
  (∀ (s : State) (rest : List HostInput), s.inputs = .reset :: rest →
    ∃ t u, step s = .next t ∧ exec .rst s = .next u ∧ SameUnit t u)

/-- R6 (marked derived in the spec; log entry 2): with nothing pending a step changes nothing. -/
def Obligations.IdleStepChangesNothing : Prop := ∀ s : State, s.inputs = [] → step s = .next s

/-- R158 (marked derived in the spec): every run of any length from any state goes on; no step stops the machine. -/
def Obligations.EveryRunGoesOn : Prop := ∀ s : State, SafeRun s

/-! ## 00_scope.md: the character width -/

/-- 00_scope.md R8, 92_eei_decisions.md D7 and its open parameters: `CHARW` is a parameter at least as wide as the widest
`ALPHA` code; two such widths give the same unit (an inference of the model's from R55 and R71). -/
def Obligations.CharacterWidthAffectsNoCommand : Prop :=
  ∀ (T : Config) (n : Nat) (i : Instr) (s : State), T.CharwFits → ({ T with charw := n } : Config).CharwFits →
    effectWith { T with charw := n } i s = effectWith T i s

/-- 40_mapper.md R79 and R80 (R79 is marked derived in the spec) with 00_scope.md R8 and R11: for every table set and every
`CHARW`, after RST and the PUSH words of a text of `CHARW`-bit characters, in which a code of 256 or more is presented as
nothing, the count and the slots are those of the text's valid characters alone. -/
def Obligations.SlotsAfterTextOfAnyCharacterWidth : Prop :=
  ∀ (T : Config) (s : State) (text : List (BitVec T.charw)), T.CwmapPermutes →
    let t := afterWords T (encode .rst :: pushText T text) s
    t.ph = .collect ∧ t.cnt.toNat = min (survivorsOfText T text).length 18 ∧
    ∀ n : Fin 17, t.cw[(T.cwmapAt n).val] = (survivorsOfText T text).getD n.val 0
end

