-- ==== Sys2Proof/Laws/Decode.lean ====
section
/-! SUPPORT. What each stage of the decoder answers, and the fields of a word as numbers. -/

namespace Sys2Proof

/-- The reserved-bits check answers a command exactly when the bits are 0 and the rest does. -/
theorem unlessReserved_eq_ok {n : Nat} (b : BitVec n) (r : Except Illegal Instr) (i : Instr) :
    unlessReserved b r = .ok i ↔ b.toNat = 0 ∧ r = .ok i := by
  unfold unlessReserved
  split <;> rename_i h
  · simp [h]
  · have : b.toNat ≠ 0 := fun hb => h (BitVec.eq_of_toNat_eq (by simpa using hb))
    simp [this]

/-- Reserved bits that are not 0 make the word illegal. -/
theorem unlessReserved_of_ne {n : Nat} (b : BitVec n) (r : Except Illegal Instr) (h : b ≠ 0) :
    unlessReserved b r = .error .reservedBits := if_neg h

/-- The operand check answers the command exactly when its operand is legal. -/
theorem unlessOperandReserved_eq_ok (j i : Instr) : unlessOperandReserved j = .ok i ↔ j.wf = true ∧ j = i := by
  unfold unlessOperandReserved
  split <;> rename_i h <;> simp [h]

/-- Format L by selector. -/
theorem decodeTableLoad_eq_ok (t : BitVec 2) (k : Symbol) (i : Instr) :
    decodeTableLoad t k = .ok i ↔
      (t.toNat = 0 ∧ .ldexp k = i) ∨ (t.toNat = 1 ∧ .ldlog k = i) ∨ (t.toNat = 2 ∧ .ldalf k = i) ∨
      (t.toNat = 3 ∧ k.toNat ≤ 16 ∧ .ldmap k = i) := by
  have ht := t.isLt
  unfold decodeTableLoad
  split <;> rename_i h
  · simp [h]
  · simp [h]
  · simp [h]
  · rename_i h1 h2
    have h3 : t.toNat = 3 := by simp at h h1 h2; omega
    simp [h3, unlessOperandReserved_eq_ok, Instr.wf, legalMapIndex]

/-! The fields of a word as numbers. -/

theorem opField_toNat (w : Word) : (opField w).toNat = w.toNat / 4096 := by
  have := w.isLt
  simp only [opField, BitVec.extractLsb'_toNat, Nat.shiftRight_eq_div_pow]; omega
theorem argField_toNat (w : Word) : (argField w).toNat = w.toNat % 4096 := by
  simp [argField]
theorem cField_toNat (w : Word) : (cField w).toNat = w.toNat % 256 := by
  simp [cField]
theorem cReserved_toNat (w : Word) : (cReserved w).toNat = w.toNat / 256 % 16 := by
  simp [cReserved, Nat.shiftRight_eq_div_pow]
theorem rField_toNat (w : Word) : (rField w).toNat = w.toNat % 64 := by
  simp [rField]
theorem rReserved_toNat (w : Word) : (rReserved w).toNat = w.toNat / 64 % 64 := by
  simp [rReserved, Nat.shiftRight_eq_div_pow]
theorem aField_toNat (w : Word) : (aField w).toNat = w.toNat / 32 % 32 := by
  simp [aField, Nat.shiftRight_eq_div_pow]
theorem bField_toNat (w : Word) : (bField w).toNat = w.toNat % 32 := by
  simp [bField]
theorem mReserved_toNat (w : Word) : (mReserved w).toNat = w.toNat / 1024 % 4 := by
  simp [mReserved, Nat.shiftRight_eq_div_pow]
theorem tField_toNat (w : Word) : (tField w).toNat = w.toNat / 32 % 4 := by
  simp [tField, Nat.shiftRight_eq_div_pow]
theorem iField_toNat (w : Word) : (iField w).toNat = w.toNat % 32 := by
  simp [iField]
theorem lReserved_toNat (w : Word) : (lReserved w).toNat = w.toNat / 128 % 32 := by
  simp [lReserved, Nat.shiftRight_eq_div_pow]
theorem sField_toNat (w : Word) : (sField w).toNat = w.toNat % 8 := by
  simp [sField]
theorem sReserved_toNat (w : Word) : (sReserved w).toNat = w.toNat / 8 % 512 := by
  simp [sReserved, Nat.shiftRight_eq_div_pow]

/-- What the decoder can answer, said once: the command of a word, with the word as a number. -/
theorem decode_eq_ok_cases (w : Word) (i : Instr) (h : decode w = .ok i) :
    (w.toNat = 0x0000 ∧ i = .nop) ∨ (w.toNat = 0x1000 ∧ i = .rst) ∨
    (∃ c, i = .push c ∧ w.toNat = 0x2000 + c.toNat) ∨ (w.toNat = 0x3000 ∧ i = .fin) ∨
    (∃ r, i = .rd r ∧ legalReg r = true ∧ w.toNat = 0x4000 + r.toNat) ∨
    (∃ a b, i = .gmul a b ∧ w.toNat = 0x5000 + 32 * a.toNat + b.toNat) ∨
    (∃ k, i = .ldexp k ∧ w.toNat = 0x6000 + k.toNat) ∨ (∃ k, i = .ldlog k ∧ w.toNat = 0x6020 + k.toNat) ∨
    (∃ k, i = .ldalf k ∧ w.toNat = 0x6040 + k.toNat) ∨
    (∃ k, i = .ldmap k ∧ k.toNat ≤ 16 ∧ w.toNat = 0x6060 + k.toNat) ∨
    (∃ c, i = .mapc c ∧ w.toNat = 0x7000 + c.toNat) ∨
    (∃ k, i = .synd k ∧ legalCheck k = true ∧ w.toNat = 0x8000 + k.toNat) ∨ (w.toNat = 0x9000 ∧ i = .chk) := by
  unfold decode at h
  split at h <;> rename_i hv
  all_goals try rw [opField_toNat] at hv
  all_goals try
    rw [unlessReserved_eq_ok] at h
    obtain ⟨hz, h⟩ := h
  all_goals try simp only [argField_toNat, cReserved_toNat, rReserved_toNat, mReserved_toNat, lReserved_toNat,
    sReserved_toNat, unlessOperandReserved_eq_ok, decodeTableLoad_eq_ok, Except.ok.injEq] at *
  · exact .inl ⟨by omega, h.symm⟩
  · exact .inr (.inl ⟨by omega, h.symm⟩)
  · exact .inr (.inr (.inl ⟨_, h.symm, by rw [cField_toNat]; omega⟩))
  · exact .inr (.inr (.inr (.inl ⟨by omega, h.symm⟩)))
  · exact .inr (.inr (.inr (.inr (.inl ⟨_, h.2.symm, h.1, by rw [rField_toNat]; omega⟩))))
  · exact .inr (.inr (.inr (.inr (.inr (.inl ⟨_, _, h.symm, by rw [aField_toNat, bField_toNat]; omega⟩)))))
  · rw [tField_toNat] at h
    refine .inr (.inr (.inr (.inr (.inr (.inr ?_)))))
    rcases h with ⟨ht, h⟩ | ⟨ht, h⟩ | ⟨ht, h⟩ | ⟨ht, hk, h⟩
    · exact .inl ⟨_, h.symm, by rw [iField_toNat]; omega⟩
    · exact .inr (.inl ⟨_, h.symm, by rw [iField_toNat]; omega⟩)
    · exact .inr (.inr (.inl ⟨_, h.symm, by rw [iField_toNat]; omega⟩))
    · exact .inr (.inr (.inr (.inl ⟨_, h.symm, hk, by rw [iField_toNat]; omega⟩)))
  · refine .inr (.inr (.inr (.inr (.inr (.inr (.inr (.inr (.inr (.inr (.inl ?_))))))))))
    exact ⟨_, h.symm, by rw [cField_toNat]; omega⟩
  · refine .inr (.inr (.inr (.inr (.inr (.inr (.inr (.inr (.inr (.inr (.inr (.inl ?_)))))))))))
    exact ⟨_, h.2.symm, h.1, by rw [sField_toNat]; omega⟩
  · refine .inr (.inr (.inr (.inr (.inr (.inr (.inr (.inr (.inr (.inr (.inr (.inr ?_)))))))))))
    exact ⟨by omega, h.symm⟩
  · simp at h

end Sys2Proof
end

