-- ==== Sys2Proof/Laws/Field.lean ====
section
/-! SUPPORT. What the field product can answer. -/

namespace Sys2Proof.Machine

@[simp] theorem gmult_zero_left (T : Config) (a : Symbol) : gmult T 0 a = 0 := by simp [gmult]
@[simp] theorem gmult_zero_right (T : Config) (a : Symbol) : gmult T a 0 = 0 := by simp [gmult]

/-- The product of non-zero elements (41_field.md R81). -/
theorem gmult_of_ne {a b : Symbol} (T : Config) (ha : a ≠ 0) (hb : b ≠ 0) :
    gmult T a b = T.gexpAt (BitVec.ofNat 5 (((T.glogAt a).toNat + (T.glogAt b).toNat) % 31)) :=
  if_neg (not_or.2 ⟨ha, hb⟩)

/-- An exponent reduced modulo 31 fits a symbol. -/
theorem toNat_mod_31 (n : Nat) : (BitVec.ofNat 5 (n % 31)).toNat = n % 31 := by
  rw [BitVec.toNat_ofNat]; omega

/-- The exponent 31 is the one a reduction modulo 31 never gives. -/
theorem ne_31_iff (n : Symbol) : n ≠ 31 ↔ n.toNat < 31 := by revert n; decide

end Sys2Proof.Machine
end

