-- ==== Sys2Proof/Laws/State.lean ====
section
/-! SUPPORT. What each update of the state leaves in each field. -/

namespace Sys2Proof.Machine

section Respond
variable (st : Status) (d : Data) (s : State)
@[simp] theorem respond_ph : (respond st d s).ph = s.ph := rfl
@[simp] theorem respond_err : (respond st d s).err = s.err := rfl
@[simp] theorem respond_cnt : (respond st d s).cnt = s.cnt := rfl
@[simp] theorem respond_cw : (respond st d s).cw = s.cw := rfl
@[simp] theorem respond_id : (respond st d s).id = s.id := rfl
@[simp] theorem respond_inputs : (respond st d s).inputs = s.inputs := rfl
@[simp] theorem respond_responses : (respond st d s).responses = s.responses ++ [⟨st, d⟩] := rfl
end Respond

section Reject
variable (s : State)
theorem rejectIll_eq : rejectIll s = respond .eIll 0 s := rfl
theorem rejectState_eq : rejectState s = respond .eState 0 s := rfl
end Reject

section Raise
variable (e : DecodeError) (s : State)
@[simp] theorem raiseError_ph : (raiseError e s).ph = .fail := rfl
@[simp] theorem raiseError_err : (raiseError e s).err = some e := rfl
@[simp] theorem raiseError_cnt : (raiseError e s).cnt = s.cnt := rfl
@[simp] theorem raiseError_cw : (raiseError e s).cw = s.cw := rfl
@[simp] theorem raiseError_id : (raiseError e s).id = s.id := rfl
@[simp] theorem raiseError_inputs : (raiseError e s).inputs = s.inputs := rfl
@[simp] theorem raiseError_responses : (raiseError e s).responses = s.responses ++ [⟨e.status, 0⟩] := rfl
end Raise

section Clear
variable (s : State)
@[simp] theorem clearUnit_ph : (clearUnit s).ph = .collect := rfl
@[simp] theorem clearUnit_err : (clearUnit s).err = none := rfl
@[simp] theorem clearUnit_cnt : (clearUnit s).cnt = 0 := rfl
@[simp] theorem clearUnit_cw : (clearUnit s).cw = Vector.replicate 17 0 := rfl
@[simp] theorem clearUnit_id : (clearUnit s).id = 0 := rfl
@[simp] theorem clearUnit_inputs : (clearUnit s).inputs = s.inputs := rfl
@[simp] theorem clearUnit_responses : (clearUnit s).responses = s.responses := rfl
theorem clearUnit_eq_reset : clearUnit s = { State.reset with inputs := s.inputs, responses := s.responses } := rfl
end Clear

section Finish
variable (acc : BitVec 65) (s : State)
@[simp] theorem finish_ph : (finish acc s).ph = .doneOk := rfl
@[simp] theorem finish_err : (finish acc s).err = s.err := rfl
@[simp] theorem finish_cnt : (finish acc s).cnt = s.cnt := rfl
@[simp] theorem finish_cw : (finish acc s).cw = s.cw := rfl
@[simp] theorem finish_id : (finish acc s).id = acc.setWidth 64 := rfl
@[simp] theorem finish_inputs : (finish acc s).inputs = s.inputs := rfl
@[simp] theorem finish_responses : (finish acc s).responses = s.responses ++ [⟨.ok, acc.setWidth 64⟩] := rfl
end Finish

section Store
variable (T : Config) (v : Symbol) (s : State)
@[simp] theorem storeSymbol_ph : (storeSymbol T v s).ph = s.ph := by unfold storeSymbol; split <;> rfl
@[simp] theorem storeSymbol_err : (storeSymbol T v s).err = s.err := by unfold storeSymbol; split <;> rfl
@[simp] theorem storeSymbol_cnt : (storeSymbol T v s).cnt = s.cnt := by unfold storeSymbol; split <;> rfl
@[simp] theorem storeSymbol_id : (storeSymbol T v s).id = s.id := by unfold storeSymbol; split <;> rfl
@[simp] theorem storeSymbol_inputs : (storeSymbol T v s).inputs = s.inputs := by unfold storeSymbol; split <;> rfl
@[simp] theorem storeSymbol_responses : (storeSymbol T v s).responses = s.responses := by
  unfold storeSymbol; split <;> rfl

/-- Below 17 the symbol goes to slot `CWMAP[CNT]`. -/
theorem storeSymbol_cw_of_lt (h : s.cnt.toNat < 17) :
    (storeSymbol T v s).cw = s.cw.set (T.cwmapAt ⟨s.cnt.toNat, h⟩) v := by simp [storeSymbol, h]

/-- From 17 on nothing is stored. -/
theorem storeSymbol_of_ge (h : 17 ≤ s.cnt.toNat) : storeSymbol T v s = s := by
  simp [storeSymbol, Nat.not_lt.mpr h]
end Store

section Count
variable (s : State)
@[simp] theorem countValid_ph : (countValid s).ph = s.ph := by unfold countValid; split <;> rfl
@[simp] theorem countValid_err : (countValid s).err = s.err := by unfold countValid; split <;> rfl
@[simp] theorem countValid_cw : (countValid s).cw = s.cw := by unfold countValid; split <;> rfl
@[simp] theorem countValid_id : (countValid s).id = s.id := by unfold countValid; split <;> rfl
@[simp] theorem countValid_inputs : (countValid s).inputs = s.inputs := by unfold countValid; split <;> rfl
@[simp] theorem countValid_responses : (countValid s).responses = s.responses := by unfold countValid; split <;> rfl

theorem countValid_cnt_of_lt (h : s.cnt.toNat < 18) : (countValid s).cnt = s.cnt + 1 := by simp [countValid, h]
theorem countValid_of_ge (h : 18 ≤ s.cnt.toNat) : countValid s = s := by simp [countValid, Nat.not_lt.mpr h]

/-- The count as a number: one more, never past 18 from below it. -/
theorem countValid_toNat :
    (countValid s).cnt.toNat = if s.cnt.toNat < 18 then s.cnt.toNat + 1 else s.cnt.toNat := by
  unfold countValid
  split
  · have : (s.cnt + 1).toNat = (s.cnt.toNat + 1) % 32 := by simp [BitVec.toNat_add]
    simp only [this]; omega
  · rfl
end Count

end Sys2Proof.Machine
end

