-- ==== Sys2Proof/Laws/Mapper.lean ====
section
/-! SUPPORT. What the alphabet lookup and PUSH can do, each said once. -/

namespace Sys2Proof.Machine

/-- Every symbol is searched. -/
theorem mem_symbols (v : Symbol) : v ∈ symbols := by revert v; decide

/-- The field of format C carries its own value as a code of `CHARW` bits, if it fits. -/
theorem toNat_of_portCode (T : Config) (c : CharCode) (d : BitVec T.charw) (h : portCode T c = some d) :
    d.toNat = c.toNat := by
  unfold portCode at h
  split at h
  · rename_i hc; cases h; simpa using Nat.mod_eq_of_lt hc
  · cases h

/-- What the lookup of an operand field is: a search for the field, if it is a code of `CHARW` bits. -/
theorem mapLookup_eq (T : Config) (c : CharCode) :
    mapLookup T c = if c.toNat < 2 ^ T.charw then symbols.find? (fun i => T.alphaAt i == c) else none := by
  unfold mapLookup
  by_cases hc : c.toNat < 2 ^ T.charw
  · have hp : portCode T c = some (c.setWidth T.charw) := if_pos hc
    have hn := toNat_of_portCode T c _ hp
    rw [hp, if_pos hc, Option.bind_some, lookupCode, hn]
    congr 1; funext i; rw [Bool.eq_iff_iff, beq_iff_eq, beq_iff_eq, BitVec.toNat_inj]
  · have hp : portCode T c = none := if_neg hc
    rw [hp, if_neg hc, Option.bind_none]

/-- A code of 256 or more misses: the entries of the alphabet are 8 bits (40_mapper.md R80). -/
theorem lookupCode_of_ge (T : Config) (c : BitVec T.charw) (h : 256 ≤ c.toNat) : lookupCode T c = none := by
  unfold lookupCode
  rw [List.find?_eq_none]
  intro i _ hi
  have := (T.alphaAt i).isLt
  rw [beq_iff_eq] at hi
  omega

/-- The operand field that carries a code below 256 is looked up as that code. -/
theorem mapLookup_setWidth (T : Config) (c : BitVec T.charw) (h : c.toNat < 256) :
    mapLookup T (c.setWidth 8) = lookupCode T c := by
  have hn : (c.setWidth 8).toNat = c.toNat := by simpa using Nat.mod_eq_of_lt h
  have hp : portCode T (c.setWidth 8) = some c := by
    unfold portCode
    rw [if_pos (hn ▸ c.isLt)]
    exact congrArg some (BitVec.eq_of_toNat_eq (by rw [BitVec.toNat_setWidth, hn, Nat.mod_eq_of_lt c.isLt]))
  rw [mapLookup, hp, Option.bind_some]

/-- With a `CHARW` that fits the alphabet the width plays no part (92_eei_decisions.md, open parameters). -/
theorem mapLookup_of_charwFits (T : Config) (h : T.CharwFits) (c : CharCode) :
    mapLookup T c = symbols.find? (fun i => T.alphaAt i == c) := by
  rw [mapLookup_eq]
  split
  · rfl
  · rename_i hc
    rw [eq_comm, List.find?_eq_none]
    intro i _ hi
    rw [beq_iff_eq] at hi
    exact hc (hi ▸ h i)

/-- A hit is an entry that holds the character (40_mapper.md R71). -/
theorem alphaAt_of_mapLookup (T : Config) (c : CharCode) (v : Symbol) (h : mapLookup T c = some v) :
    T.alphaAt v = c := by
  rw [mapLookup_eq] at h
  split at h
  · simpa using List.find?_some h
  · cases h

/-- A miss is a character that no entry holds. -/
theorem mapLookup_eq_none_iff (T : Config) (hw : T.CharwFits) (c : CharCode) :
    mapLookup T c = none ↔ ∀ i, T.alphaAt i ≠ c := by
  rw [mapLookup_of_charwFits T hw, List.find?_eq_none]
  exact ⟨fun h i => by simpa using h i (mem_symbols i), fun h i _ => by simpa using h i⟩

/-- With distinct entries the hit is the entry's own index (10_state.md R31 condition 1). -/
theorem mapLookup_alphaAt (T : Config) (hw : T.CharwFits) (h : T.AlphaDistinct) (v : Symbol) :
    mapLookup T (T.alphaAt v) = some v := by
  cases hf : mapLookup T (T.alphaAt v) with
  | none => exact absurd rfl ((mapLookup_eq_none_iff T hw _).1 hf v)
  | some i => rw [h _ _ (alphaAt_of_mapLookup T _ i hf)]

/-- The data of a miss is 0. -/
@[simp] theorem hitData_none : hitData none = 0 := by decide

/-- The data of a hit is bit 5 and the symbol. -/
theorem hitData_some (v : Symbol) : hitData (some v) = BitVec.ofNat 64 (0x20 + v.toNat) := by revert v; decide

/-- All that PUSH can do. -/
theorem pushEffect_cases (T : Config) (c : CharCode) (s : State) :
    (s.ph ≠ .collect ∧ pushEffect T c s = rejectState s) ∨
    (s.ph = .collect ∧ mapLookup T c = none ∧ pushEffect T c s = respond .ok 0 s) ∨
    (s.ph = .collect ∧ ∃ v, mapLookup T c = some v ∧
      pushEffect T c s = respond .ok (hitData (some v)) (countValid (storeSymbol T v s))) := by
  unfold pushEffect
  by_cases hp : s.ph = .collect
  · cases h : mapLookup T c with
    | none => exact .inr (.inl ⟨hp, rfl, by simp [hp]⟩)
    | some v => exact .inr (.inr ⟨hp, v, rfl, by simp [hp]⟩)
  · exact .inl ⟨hp, if_pos hp⟩

section Frame
variable (T : Config) (c : CharCode) (s : State)
/-- PUSH leaves the phase, the error code, the identifier and the pending inputs. -/
theorem pushEffect_frame : (pushEffect T c s).ph = s.ph ∧ (pushEffect T c s).err = s.err ∧
    (pushEffect T c s).id = s.id ∧ (pushEffect T c s).inputs = s.inputs := by
  rcases pushEffect_cases T c s with ⟨_, h⟩ | ⟨_, _, h⟩ | ⟨_, v, _, h⟩ <;> rw [h]
  · exact ⟨rfl, rfl, rfl, rfl⟩
  · exact ⟨rfl, rfl, rfl, rfl⟩
  · simp
end Frame

end Sys2Proof.Machine
end

