-- ==== Sys2Proof/Laws/Ops.lean ====
section
/-! SUPPORT. What the shared operations and the operand forms can answer, each said once. -/

namespace Sys2Proof.Machine

section Inputs
variable (w : Word) (s : State)
@[simp] theorem presentCommand_ph : (presentCommand w s).ph = s.ph := rfl
@[simp] theorem presentCommand_err : (presentCommand w s).err = s.err := rfl
@[simp] theorem presentCommand_cnt : (presentCommand w s).cnt = s.cnt := rfl
@[simp] theorem presentCommand_cw : (presentCommand w s).cw = s.cw := rfl
@[simp] theorem presentCommand_id : (presentCommand w s).id = s.id := rfl
@[simp] theorem presentCommand_inputs : (presentCommand w s).inputs = .command w :: s.inputs := rfl
@[simp] theorem presentCommand_responses : (presentCommand w s).responses = s.responses := rfl

/-- A command presented ahead of everything else is the next input, and accepting it leaves the rest as it was. -/
@[simp] theorem takeInput_presentCommand : takeInput (presentCommand w s) = some (.command w, s) := rfl

/-- There is no next input exactly when nothing is pending. -/
theorem takeInput_eq_none_iff : takeInput s = none ↔ s.inputs = [] := by
  unfold takeInput; split <;> simp_all

/-- Taking an input removes the first one and changes nothing else. -/
theorem takeInput_eq_some_iff (x : HostInput) (t : State) :
    takeInput s = some (x, t) ↔ ∃ rest, s.inputs = x :: rest ∧ t = { s with inputs := rest } := by
  unfold takeInput
  split <;> rename_i h
  · simp [h]
  · simp only [Option.some.injEq, Prod.mk.injEq, h, List.cons.injEq]
    constructor
    · rintro ⟨rfl, rfl⟩; exact ⟨_, ⟨rfl, rfl⟩, rfl⟩
    · rintro ⟨_, ⟨rfl, rfl⟩, rfl⟩; exact ⟨rfl, rfl⟩
end Inputs

/-- Hardware reset and RST clear the unit alike. -/
theorem hardwareReset_eq (s : State) : hardwareReset s = clearUnit s := rfl

/-- Raising an error changes the phase and the error code and gives the response of that error. -/
theorem raiseError_eq (e : DecodeError) (s : State) :
    raiseError e s = respond e.status 0 { s with ph := .fail, err := some e } := rfl

/-- The status of an error has the code of the error (30_encoding.md R61). -/
theorem DecodeError.status_code (e : DecodeError) : e.status.code.toNat = e.bits.toNat := by cases e <;> rfl

/-- `CWV` is `CNT = 17` (10_state.md R19). -/
theorem cwv_eq_true_iff (s : State) : cwv s = true ↔ s.cnt = 17 := by simp [cwv]

/-- A register number names a register exactly when it is legal. -/
theorem regOf_isSome (r : BitVec 6) : (regOf r).isSome = legalReg r := by revert r; decide

/-- The register numbers 0x10..0x20 name the codeword slots. -/
theorem regOf_cw (k : Fin 17) : regOf (BitVec.ofNat 6 (0x10 + k.val)) = some (.cw k) := by revert k; decide

/-- An index of `CWMAP` is 0..16. -/
theorem mapIndex_isSome (i : Symbol) : (mapIndex i).isSome = legalMapIndex i := by revert i; decide

/-- The index a legal operand stands for is the operand's value. -/
theorem mapIndex_eq_some_iff (i : Symbol) (n : Fin 17) : mapIndex i = some n ↔ i.toNat = n.val := by
  revert i n; decide

/-- A check index is 1..4. -/
theorem checkIndex_isSome (c : BitVec 3) : (checkIndex c).isSome = legalCheck c := by revert c; decide

/-- A read is permitted in DONE_OK, and of STATUS and the slots always (43_orchestrator.md R114). -/
theorem readReg_eq_none_iff (x : Reg) (s : State) :
    readReg x s = none ↔ (x = .id ∨ x = .hexHi ∨ x = .hexLo) ∧ s.ph ≠ .doneOk := by
  cases x <;> by_cases h : s.ph = .doneOk <;> simp [readReg, h]

end Sys2Proof.Machine
end

