-- ==== Sys2Proof/Laws/Orchestrator.lean ====
section
/-! SUPPORT. What FIN and RD can do, each said once. -/

namespace Sys2Proof.Machine

/-- All that FIN can do. -/
theorem finEffect_cases (T : Config) (s : State) :
    (s.ph ≠ .collect ∧ finEffect T s = rejectState s) ∨
    (s.ph = .collect ∧ s.cnt ≠ 17 ∧ finEffect T s = raiseError .tooShort s) ∨
    (s.ph = .collect ∧ s.cnt = 17 ∧ valid T s.cw = false ∧ finEffect T s = raiseError .checksumInvalid s) ∨
    (s.ph = .collect ∧ s.cnt = 17 ∧ valid T s.cw = true ∧ overflows (accumulate s.cw) = true ∧
      finEffect T s = raiseError .overflow s) ∨
    (s.ph = .collect ∧ s.cnt = 17 ∧ valid T s.cw = true ∧ overflows (accumulate s.cw) = false ∧
      finEffect T s = finish (accumulate s.cw) s) := by
  unfold finEffect
  by_cases hp : s.ph = .collect
  · rw [if_neg (not_not.2 hp)]
    by_cases hc : s.cnt = 17
    · rw [if_neg (not_not.2 hc)]
      cases hv : valid T s.cw <;> cases ho : overflows (accumulate s.cw) <;> simp [hp, hc]
    · rw [if_pos hc]; exact .inr (.inl ⟨hp, hc, rfl⟩)
  · rw [if_pos hp]; exact .inl ⟨hp, rfl⟩

/-- FIN leaves the codeword, the count and the pending inputs. -/
theorem finEffect_frame (T : Config) (s : State) :
    (finEffect T s).cw = s.cw ∧ (finEffect T s).cnt = s.cnt ∧ (finEffect T s).inputs = s.inputs := by
  rcases finEffect_cases T s with ⟨_, h⟩ | ⟨_, _, h⟩ | ⟨_, _, _, h⟩ | ⟨_, _, _, _, h⟩ | ⟨_, _, _, _, h⟩ <;> rw [h] <;>
    exact ⟨rfl, rfl, rfl⟩

/-- All that RD of a register can do. -/
theorem rdEffect_of_some (r : BitVec 6) (x : Reg) (s : State) (h : regOf r = some x) :
    (∃ d, readReg x s = some d ∧ rdEffect r s = respond .ok d s) ∨
    (readReg x s = none ∧ rdEffect r s = rejectState s) := by
  cases hx : readReg x s with
  | none => exact .inr ⟨rfl, by simp only [rdEffect, h, hx]⟩
  | some d => exact .inl ⟨d, rfl, by simp only [rdEffect, h, hx]⟩

end Sys2Proof.Machine
end

