-- ==== Sys2Proof/Laws/PerInstr.lean ====
section
/-! SUPPORT. The per-command family: the word of a command has the fixed bits of its row of spec/opcode_table.json. -/

namespace Sys2Proof.Laws

/-- The `mask` and the `pattern` of a command's row of spec/opcode_table.json. -/
def row : Instr → Word × Word
  | .nop => (0xFFFF, 0x0000)
  | .rst => (0xFFFF, 0x1000)
  | .push _ => (0xFF00, 0x2000)
  | .fin => (0xFFFF, 0x3000)
  | .rd _ => (0xFFC0, 0x4000)
  | .gmul _ _ => (0xFC00, 0x5000)
  | .ldexp _ => (0xFFE0, 0x6000)
  | .ldlog _ => (0xFFE0, 0x6020)
  | .ldalf _ => (0xFFE0, 0x6040)
  | .ldmap _ => (0xFFE0, 0x6060)
  | .mapc _ => (0xFF00, 0x7000)
  | .synd _ => (0xFFF8, 0x8000)
  | .chk => (0xFFFF, 0x9000)

namespace EncodeMatchesRow

/-- The word of the command, under the row's mask, is the row's pattern. -/
def Statement (i : Instr) : Prop := encode i &&& (row i).1 = (row i).2

theorem nop : Statement .nop := by unfold Statement; decide
theorem rst : Statement .rst := by unfold Statement; decide
theorem push (c : CharCode) : Statement (.push c) := by revert c; unfold Statement; decide
theorem fin : Statement .fin := by unfold Statement; decide
theorem rd (r : BitVec 6) : Statement (.rd r) := by revert r; unfold Statement; decide
theorem gmul (a b : Symbol) : Statement (.gmul a b) := by revert a b; unfold Statement; decide
theorem ldexp (i : Symbol) : Statement (.ldexp i) := by revert i; unfold Statement; decide
theorem ldlog (i : Symbol) : Statement (.ldlog i) := by revert i; unfold Statement; decide
theorem ldalf (i : Symbol) : Statement (.ldalf i) := by revert i; unfold Statement; decide
theorem ldmap (i : Symbol) : Statement (.ldmap i) := by revert i; unfold Statement; decide
theorem mapc (c : CharCode) : Statement (.mapc c) := by revert c; unfold Statement; decide
theorem synd (s : BitVec 3) : Statement (.synd s) := by revert s; unfold Statement; decide
theorem chk : Statement .chk := by unfold Statement; decide

end EncodeMatchesRow

end Sys2Proof.Laws
end

