-- ==== Sys2Proof/Laws/Step.lean ====
section
/-! SUPPORT. What a step can do, by the next input. -/

namespace Sys2Proof.Machine

/-- A step on a command word that is presented ahead of everything else. -/
theorem step_presentCommand (w : Word) (s : State) :
    step (presentCommand w s) = match decode w with | .ok i => exec i s | .error _ => .next (rejectIll s) := rfl

/-- All that a step can do. -/
theorem step_cases (s : State) :
    (s.inputs = [] ∧ step s = .next s) ∨
    (∃ w rest i, s.inputs = .command w :: rest ∧ decode w = .ok i ∧ step s = exec i { s with inputs := rest }) ∨
    (∃ w rest e, s.inputs = .command w :: rest ∧ decode w = .error e ∧
      step s = .next (rejectIll { s with inputs := rest })) ∨
    (∃ rest, (s.inputs = .reset :: rest ∨ ∃ w, s.inputs = .resetDuring w :: rest) ∧
      step s = .next (clearUnit { s with inputs := rest })) := by
  cases h : s.inputs with
  | nil => exact .inl ⟨rfl, by simp only [step, takeInput, h]⟩
  | cons x rest =>
    cases x with
    | command w =>
      cases hd : decode w with
      | ok i => exact .inr (.inl ⟨w, rest, i, rfl, hd, by simp only [step, takeInput, h, hd]⟩)
      | error e => exact .inr (.inr (.inl ⟨w, rest, e, rfl, hd, by simp only [step, takeInput, h, hd]⟩))
    | reset => exact .inr (.inr (.inr ⟨rest, .inl rfl, by simp only [step, takeInput, h, hardwareReset]⟩))
    | resetDuring w => exact .inr (.inr (.inr ⟨rest, .inr ⟨w, rfl⟩, by simp only [step, takeInput, h, hardwareReset]⟩))

end Sys2Proof.Machine
end

