-- ==== Sys2Proof/Laws/Validator.lean ====
section
/-! SUPPORT. What a syndrome and the validity test can answer. -/

namespace Sys2Proof.Machine

/-- A running xor is its start xor the run from 0. -/
theorem foldl_xor_eq {α : Type} (l : List α) (f : α → Symbol) (a : Symbol) :
    l.foldl (fun t k => t ^^^ f k) a = a ^^^ l.foldl (fun t k => t ^^^ f k) 0 := by
  induction l generalizing a with
  | nil => simp
  | cons x l ih => simp only [List.foldl]; rw [ih, ih (0 ^^^ f x)]; simp [BitVec.xor_assoc]

/-- An or is 0 exactly when both operands are. -/
theorem or_eq_zero_iff (a b : Symbol) : a ||| b = 0 ↔ a = 0 ∧ b = 0 := by revert a b; decide

/-- The codeword is valid exactly when the four syndromes are 0 (42_validator.md R96). -/
theorem valid_eq_true_iff (T : Config) (cw : Vector Symbol 17) : valid T cw = true ↔
    syndrome T 1 cw = 0 ∧ syndrome T 2 cw = 0 ∧ syndrome T 3 cw = 0 ∧ syndrome T 4 cw = 0 := by
  unfold valid
  rw [beq_iff_eq, or_eq_zero_iff, or_eq_zero_iff, or_eq_zero_iff, and_assoc, and_assoc]

/-- All that SYND with a legal check index can do. -/
theorem syndEffect_of_some (T : Config) (c : BitVec 3) (i : Nat) (s : State) (h : checkIndex c = some i) :
    syndEffect T c s = if s.cnt = 17 then respond .ok (zext64 (syndrome T i s.cw)) s else rejectState s := by
  simp [syndEffect, h, cwv]

/-- All that CHK can do. -/
theorem chkEffect_eq (T : Config) (s : State) :
    chkEffect T s = if s.cnt = 17 then respond .ok (zext64 (BitVec.ofBool (valid T s.cw))) s else rejectState s := by
  simp [chkEffect, cwv]

end Sys2Proof.Machine
end

