-- ==== Sys2Proof/Tests/Slice0.lean ====
section
/-! SUPPORT. The model's own tests: ill-formed commands, decoding of words written out from the spec's encodings, one or
two small steps per command (expected values from spec/95_test_vectors.md), and for every statement with hypotheses a
concrete state and operands that meet them. -/

namespace Sys2Proof.Tests

open Sys2Proof Sys2Proof.Machine

/-! ## Ill-formed commands (30_encoding.md R65) -/

theorem test_wf_refuses_rd_low : (Instr.rd 0x04).wf = false := by decide
theorem test_wf_refuses_rd_below_slots : (Instr.rd 0x0F).wf = false := by decide
theorem test_wf_refuses_rd_high : (Instr.rd 0x21).wf = false := by decide
theorem test_wf_refuses_ldmap_17 : (Instr.ldmap 17).wf = false := by decide
theorem test_wf_refuses_synd_0 : (Instr.synd 0).wf = false := by decide
theorem test_wf_refuses_synd_5 : (Instr.synd 5).wf = false := by decide

/-! ## Decoding: words from 95_test_vectors.md V13 and 30_encoding.md R53, bit by bit -/

theorem test_decode_nop : decode 0b0000_000000000000 = .ok .nop := by decide
theorem test_decode_rst : decode 0b0001_000000000000 = .ok .rst := by decide
theorem test_decode_push : decode 0b0010_0000_00110010 = .ok (.push 0x32) := by decide
theorem test_decode_fin : decode 0b0011_000000000000 = .ok .fin := by decide
theorem test_decode_rd : decode 0b0100_000000_100000 = .ok (.rd 0x20) := by decide
theorem test_decode_gmul : decode 0b0101_00_00111_10011 = .ok (.gmul 7 19) := by decide
theorem test_decode_ldexp : decode 0b0110_00000_00_11111 = .ok (.ldexp 31) := by decide
theorem test_decode_ldlog : decode 0b0110_00000_01_11111 = .ok (.ldlog 31) := by decide
theorem test_decode_ldalf : decode 0b0110_00000_10_11111 = .ok (.ldalf 31) := by decide
theorem test_decode_ldmap : decode 0b0110_00000_11_10000 = .ok (.ldmap 16) := by decide
theorem test_decode_mapc : decode 0b0111_0000_11111111 = .ok (.mapc 0xFF) := by decide
theorem test_decode_synd : decode 0b1000_000000000_100 = .ok (.synd 4) := by decide
theorem test_decode_chk : decode 0b1001_000000000000 = .ok .chk := by decide

/-- The illegal words of V13. -/
theorem test_decode_refuses :
    ([0x0001, 0x1001, 0x2132, 0x2100, 0x3001, 0x4004, 0x400F, 0x4021, 0x4040, 0x5400, 0x5800, 0x6080, 0x6071, 0x607F,
      0x6100, 0x7100, 0x8000, 0x8005, 0x8008, 0x9001, 0xA000, 0xF000, 0xFFFF] : List Word).all
      (fun w => (decode w).toOption.isNone) = true := by decide

theorem test_decodeTableWord : decodeTableWord 16 0x50F3 = some (.gmul 7 19) := by decide

/-! ## Steps -/

/-- The state after one command word. -/
def after (w : Word) (s : State) : Option State :=
  match step (presentCommand w s) with
  | .next t => some t
  | _ => none

/-- The last response, as status and data. -/
def last (w : Word) (s : State) : Option (Status × Data) :=
  (after w s).bind fun t => t.responses.getLast?.map fun r => (r.st, r.data)

/-- A collecting unit with `n` characters and the given slots. -/
def collecting (n : BitVec 5) (cw : Vector Symbol 17) : State := { State.reset with cnt := n, cw := cw }

/-- The slots of identifier 1 (V5). -/
def slotsOfOne : Vector Symbol 17 := #v[1, 0, 0, 0, 0, 0, 0, 0, 0, 0, 0, 0, 0, 17, 9, 6, 30]
/-- The slots of the largest identifier, 2^64 - 1 (V5). -/
def slotsOfMax : Vector Symbol 17 := #v[31, 31, 31, 31, 31, 31, 31, 31, 31, 31, 31, 31, 15, 22, 30, 0, 17]
/-- The valid slots whose sum is exactly 2^64 (V6). -/
def slotsOverflowing : Vector Symbol 17 := #v[0, 0, 0, 0, 0, 0, 0, 0, 0, 0, 0, 0, 16, 25, 19, 25, 7]
/-- The slots of identifier 1 with one changed (V7). -/
def slotsChanged : Vector Symbol 17 := #v[1, 0, 0, 0, 0, 0, 0, 0, 0, 0, 0, 1, 0, 17, 9, 6, 30]

/-- A unit in DONE_OK with identifier 1. -/
def finished : State := { collecting 17 slotsOfOne with ph := .doneOk, id := 1 }
/-- A unit in FAIL after FIN with no character. -/
def failed : State := { State.reset with ph := .fail, err := some .tooShort }

theorem test_nop : last 0x0000 failed = some (.ok, 0) := by decide
theorem test_rst : after 0x1000 finished = some { State.reset with responses := [⟨.ok, 0⟩] } := by decide
theorem test_push_ninth : -- P9 row 10: the ninth character goes to CWMAP[8] = 13
    (after 0x2041 (collecting 8 (Vector.replicate 17 0))).map (fun t => (t.cnt.toNat, t.cw[13], t.cw[8])) =
      some (9, 8, 0) := by decide
theorem test_push_saturates : -- P9 row 19
    (after 0x204B (collecting 18 slotsOfOne)).map (fun t => (t.cnt.toNat, t.cw)) = some (18, slotsOfOne) := by decide
theorem test_fin_max : -- V5
    (after 0x3000 (collecting 17 slotsOfMax)).map (fun t => (t.ph, t.id)) =
      some (.doneOk, 0xFFFFFFFFFFFFFFFF) := by decide
theorem test_fin_overflow : last 0x3000 (collecting 17 slotsOverflowing) = some (.eOvf, 0) := by decide -- V6, P4
theorem test_rd_status : last 0x4000 finished = some (.ok, 0x1111) := by decide -- V12
theorem test_rd_hexlo : last 0x4003 finished = some (.ok, 0x3030303030303031) := by decide -- V11
theorem test_gmul : last 0x50F3 State.reset = some (.ok, 22) := by decide -- P6 row 10
theorem test_gmul_wraps : last 0x5242 State.reset = some (.ok, 1) := by decide -- P6 row 8
theorem test_ldexp : last 0x601E State.reset = some (.ok, 0x12) := by decide -- P6 row 14
theorem test_ldlog : last 0x6032 State.reset = some (.ok, 0x1E) := by decide -- P6 row 19
theorem test_ldalf : last 0x605F State.reset = some (.ok, 0x5A) := by decide -- V1: 'Z' is symbol 31
theorem test_ldmap : last 0x6070 State.reset = some (.ok, 0x0B) := by decide -- P8 row 11
theorem test_mapc_hit : last 0x705A State.reset = some (.ok, 0x3F) := by decide -- V1
theorem test_mapc_miss : last 0x7049 State.reset = some (.ok, 0) := by decide -- V1
theorem test_synd : last 0x8002 (collecting 17 slotsChanged) = some (.ok, 0x15) := by decide -- P5 row 25
theorem test_synd_early : last 0x8001 (collecting 16 slotsChanged) = some (.eState, 0) := by decide -- P5 row 21
theorem test_chk_valid : last 0x9000 (collecting 17 slotsOverflowing) = some (.ok, 1) := by decide -- V6
theorem test_chk_invalid : last 0x9000 (collecting 17 slotsChanged) = some (.ok, 0) := by decide -- P5 row 28
theorem test_illegal : last 0x2132 State.reset = some (.eIll, 0) := by decide -- P8 row 5

/-- The coefficients of V4, one column per syndrome. -/
theorem test_coefficients : ([0, 1, 11, 12, 13, 16] : List (Fin 17)).map
    (fun k => [1, 2, 3, 4].map fun i => (coeff config i k).toNat) =
    [[1, 1, 1, 1], [2, 4, 8, 16], [7, 21, 4, 28], [14, 30, 5, 19], [11, 15, 6, 31], [18, 9, 22, 11]] := by decide

/-- The host's placing of a word makes the next step run it. -/
theorem test_withFetchWord : step (State.reset.withFetchWord 16 0x4000) = exec (.rd 0x00) State.reset := by rfl

/-! ## Witnesses: the hypotheses of each statement are met together, each clause's at a boundary of its range -/

/-- A finished unit has the invariants. -/
theorem finished_inv : UnitInv config finished :=
  ⟨by decide, by decide, by decide, by decide, by decide, by decide, by decide⟩

/-- A failed unit has the invariants. -/
theorem failed_inv : UnitInv config failed :=
  ⟨by decide, by decide, by decide, by decide, by decide, by decide, by decide⟩

/-- A unit that has taken one character has the invariants. -/
theorem collecting_inv : UnitInv config (collecting 1 #v[0, 0, 0, 5, 0, 0, 0, 0, 0, 0, 0, 0, 0, 0, 0, 0, 0]) :=
  ⟨by decide, by decide, by decide, by decide, by decide, by decide, by decide⟩

theorem witness_ResetStateValues : SameUnit State.reset { State.reset with responses := [⟨.ok, 0⟩] } :=
  ⟨rfl, rfl, rfl, rfl, rfl⟩

theorem witness_InvariantKeptByEveryStep : ∃ s t, UnitInv config s ∧ step s = .next t ∧ s.ph = .doneOk ∧ t.ph = .collect :=
  ⟨{ finished with inputs := [.command 0x1000] }, rstEffect finished,
    ⟨finished_inv.1, finished_inv.2, finished_inv.3, finished_inv.4, finished_inv.5, finished_inv.6, finished_inv.7⟩,
    rfl, rfl, rfl⟩

theorem witness_InvariantKeptForEveryTableSet : config.WellFormed ∧ UnitInv config finished :=
  ⟨by decide, finished_inv⟩

theorem witness_PhaseChangesOnlyByResetRstFin : State.reset.ph = .collect := rfl

theorem witness_FinishedDecodeFrozenUntilRst :
    failed.ph ≠ .collect ∧ finished.ph ≠ .collect ∧ decode 0x2032 ≠ .ok .rst ∧ decode 0xFFFF ≠ .ok .rst := by decide

theorem witness_EachItemHasItsWriters :
    (after 0x2033 State.reset).map (fun t => (t.cnt, t.cw[3])) = some (1, 1) ∧
    (after 0x3000 State.reset).map (fun t => (t.ph, t.err)) = some (.fail, some .tooShort) ∧
    (after 0x1000 finished).map (fun t => (t.ph, t.id, t.cnt)) = some (.collect, 0, 0) := by decide

theorem witness_OnlyRstPushFinWriteState :
    decode 0x0000 = .ok .nop ∧ decode 0x9000 = .ok .chk ∧ (decode 0xA000).toOption = none := by decide

theorem witness_HexViewMostSignificantDigitFirst : 0 < 16 ∧ 15 < 16 := by decide

theorem witness_HexViewDeterminesIdentifier : hexHi 0x18226A07A589DD4A = 0x3138323236613037 ∧
    hexLo 0x18226A07A589DD4A = 0x6135383964643461 := by decide

theorem witness_DecodeOfEncodeIsIdentity : (Instr.rd 0x03).wf = true ∧ (Instr.rd 0x10).wf = true ∧
    (Instr.rd 0x20).wf = true ∧ (Instr.ldmap 16).wf = true ∧ (Instr.synd 1).wf = true ∧ (Instr.synd 4).wf = true ∧
    (Instr.gmul 31 31).wf = true := by decide

theorem witness_EncodeOfDecodeIsIdentity : decode 0x4020 = .ok (.rd 0x20) := by decide

theorem witness_ReservedOpcodesRejected :
    0xA ≤ (opField 0xA000).toNat ∧ 0xA ≤ (opField 0xFFFF).toNat ∧ ¬ 0xA ≤ (opField 0x9FFF).toNat := by decide

theorem witness_ReservedBitsRejected :
    (opField 0x0001 ∈ [0x0#4, 0x1#4, 0x3#4, 0x9#4] ∧ (0x0001 : Word).extractLsb' 0 12 ≠ 0) ∧
    (opField 0x9800 ∈ [0x0#4, 0x1#4, 0x3#4, 0x9#4] ∧ (0x9800 : Word).extractLsb' 0 12 ≠ 0) ∧
    (opField 0x2100 ∈ [0x2#4, 0x7#4] ∧ (0x2100 : Word).extractLsb' 8 4 ≠ 0) ∧
    (opField 0x7800 ∈ [0x2#4, 0x7#4] ∧ (0x7800 : Word).extractLsb' 8 4 ≠ 0) ∧
    (opField 0x4040 = 0x4 ∧ (0x4040 : Word).extractLsb' 6 6 ≠ 0) ∧
    (opField 0x5400 = 0x5 ∧ (0x5400 : Word).extractLsb' 10 2 ≠ 0) ∧
    (opField 0x6080 = 0x6 ∧ (0x6080 : Word).extractLsb' 7 5 ≠ 0) ∧
    (opField 0x8008 = 0x8 ∧ (0x8008 : Word).extractLsb' 3 9 ≠ 0) := by decide

/-- Both ends of every reserved range, and the words beside them. -/
theorem witness_ReservedOperandsRejected :
    ([0x6071, 0x607F, 0x8000, 0x8005, 0x8007, 0x4004, 0x400F, 0x4021, 0x403F] : List Word).all
      (fun w => decide ((opField w).toNat ≤ 0x9) && decide (decode w = .error .reservedOperand)) = true ∧
    ([0x6070, 0x8001, 0x8004, 0x4003, 0x4010, 0x4020] : List Word).all
      (fun w => decide ((opField w).toNat ≤ 0x9) && (decode w).toOption.isSome) = true := by decide

theorem witness_StatusCodesAndTheirProducers : Instr.fin.wf = true ∧ (Instr.rd 0x01).wf = true ∧
    decode 0xFFFF = .error .reservedOpcode ∧ last 0x3000 State.reset = some (.eLen, 0) ∧
    last 0x3000 (collecting 17 slotsChanged) = some (.eCsum, 0) ∧
    last 0x4001 State.reset = some (.eState, 0) := by decide

theorem witness_MapcCommand : (∀ i, config.alphaAt i ≠ 0x49) ∧ config.alphaAt 31 = 0x5A ∧
    opField 0x7100 = 0x7 ∧ (0x7100 : Word).extractLsb' 8 4 ≠ 0 := by decide

theorem witness_TableLoadCommands : (16 : Symbol).toNat ≤ 16 ∧ 17 ≤ (17 : Symbol).toNat := by decide

theorem witness_PushCommand :
    ((collecting 0 slotsOfOne).ph = .collect ∧ (collecting 0 slotsOfOne).cnt.toNat = (0 : Fin 17).val) ∧
    ((collecting 16 slotsOfOne).ph = .collect ∧ (collecting 16 slotsOfOne).cnt.toNat = (16 : Fin 17).val) ∧
    (collecting 17 slotsOfOne).cnt.toNat = 17 ∧ 18 ≤ (collecting 18 slotsOfOne).cnt.toNat ∧
    (∀ i, config.alphaAt i ≠ 0x2D) ∧ finished.ph ≠ .collect ∧ opField 0x2100 = 0x2 ∧
    (0x2100 : Word).extractLsb' 8 4 ≠ 0 := by decide

theorem witness_SurplusCharactersFailTheLengthCheck :
    ((collecting 17 slotsOfOne).ph = .collect ∧ (collecting 17 slotsOfOne).cnt = 17) ∧
    ((collecting 18 slotsOfOne).ph = .collect ∧ (collecting 18 slotsOfOne).cnt = 18) := by decide

theorem witness_GmulCommand : (0 : Symbol) = 0 ∧ (31 : Symbol) ≠ 0 ∧ opField 0x5400 = 0x5 ∧
    (0x5400 : Word).extractLsb' 10 2 ≠ 0 := by decide

theorem witness_FieldProductLaws : config.WellFormed ∧ (30 : Symbol) ≠ 31 ∧
    (29 : Symbol).toNat = ((30 : Symbol).toNat + (30 : Symbol).toNat) % 31 ∧ (7 : Symbol) ≠ 0 := by decide

theorem witness_FieldProductDistributes : config.WellFormed ∧ FieldAdditive config := by decide

/-- The default tables with other values in the two entries that only LDEXP 31 and LDLOG 0 read. -/
def otherPlaceholders : Config := { config with gexp := config.gexp.set 31 9, glog := config.glog.set 0 9 }

theorem witness_PlaceholderEntriesReadOnlyByTheirLoads : AgreeOnRead config otherPlaceholders ∧
    config ≠ otherPlaceholders ∧ Instr.fin ≠ .ldexp 31 ∧ Instr.ldlog 1 ≠ .ldlog 0 :=
  ⟨⟨rfl, rfl, rfl, by decide, by decide⟩, by decide, by decide, by decide⟩

theorem witness_SyndCommand :
    (1 ≤ (1#3).toNat ∧ (4#3).toNat ≤ 4 ∧ (collecting 17 slotsChanged).cnt = 17) ∧
    ((collecting 16 slotsOfOne).cnt ≠ 17 ∧ (collecting 18 slotsOfOne).cnt ≠ 17) ∧
    (finished.ph = .doneOk ∧ UnitInv config finished) ∧
    (opField 0x8008 = 0x8 ∧ (0x8008 : Word).extractLsb' 3 9 ≠ 0) ∧
    (opField 0x8005 = 0x8 ∧ sField 0x8005 ∈ [0#3, 5#3, 6#3, 7#3]) :=
  ⟨by decide, by decide, ⟨rfl, finished_inv⟩, by decide, by decide⟩

theorem witness_ChkCommand :
    ((collecting 17 slotsOfOne).cnt = 17 ∧ AllSyndromesZero config (collecting 17 slotsOfOne).cw) ∧
    ((collecting 17 slotsChanged).cnt = 17 ∧ ¬ AllSyndromesZero config (collecting 17 slotsChanged).cw) ∧
    (collecting 16 slotsOfOne).cnt ≠ 17 ∧ opField 0x9001 = 0x9 ∧ (0x9001 : Word).extractLsb' 0 12 ≠ 0 := by
  unfold AllSyndromesZero; decide

theorem witness_SyndromesAreLinear : config.WellFormed ∧ FieldAdditive config := by decide

theorem witness_SingleSymbolErrorsDetected : config.WellFormed ∧ FieldAdditive config ∧ valid config slotsOfOne = true ∧
    (30 : Symbol) ≠ slotsOfOne[0] ∧ (0 : Symbol) ≠ slotsOfOne[16] := by decide

theorem witness_NopCommand : opField 0x0001 = 0x0 ∧ (0x0001 : Word).extractLsb' 0 12 ≠ 0 := by decide

theorem witness_RstCommand : failed.ph ≠ .collect ∧ (after 0x1000 failed).map (fun t => t.ph) = some .collect ∧
    opField 0x1001 = 0x1 ∧ (0x1001 : Word).extractLsb' 0 12 ≠ 0 := by decide

theorem witness_FinCommand :
    finished.ph ≠ .collect ∧
    ((collecting 16 slotsOfOne).ph = .collect ∧ (collecting 16 slotsOfOne).cnt ≠ 17) ∧
    ((collecting 18 slotsOfOne).ph = .collect ∧ (collecting 18 slotsOfOne).cnt ≠ 17) ∧
    ((collecting 17 slotsChanged).ph = .collect ∧ (collecting 17 slotsChanged).cnt = 17 ∧
      ¬ AllSyndromesZero config slotsChanged) ∧
    ((collecting 17 slotsOverflowing).cnt = 17 ∧ AllSyndromesZero config slotsOverflowing ∧
      2 ^ 64 ≤ weightedSum slotsOverflowing) ∧
    ((collecting 17 slotsOfOne).ph = .collect ∧ (collecting 17 slotsOfOne).cw = slotsOfOne) ∧
    ((collecting 17 slotsOfMax).cnt = 17 ∧ AllSyndromesZero config slotsOfMax ∧ weightedSum slotsOfMax < 2 ^ 64) ∧
    opField 0x3001 = 0x3 ∧ (0x3001 : Word).extractLsb' 0 12 ≠ 0 := by
  unfold AllSyndromesZero; decide

theorem witness_AccumulatorIsExact : 13 ≤ (13 : Fin 17).val ∧ 13 ≤ (16 : Fin 17).val := by decide

theorem witness_AccumulatorIsConcatenation : slotsOfMax[12].toNat < 16 ∧ 16 ≤ slotsOverflowing[12].toNat := by decide

theorem witness_RdCommand : finished.ph = .doneOk ∧ failed.ph ≠ .doneOk ∧ State.reset.ph ≠ .doneOk ∧
    ((0x03#6).toNat ≤ 0x03) ∧ (0x10 ≤ (0x10#6).toNat ∧ (0x20#6).toNat ≤ 0x20) ∧
    (0x04 ≤ (0x04#6).toNat ∧ (0x0F#6).toNat ≤ 0x0F) ∧ 0x21 ≤ (0x21#6).toNat ∧
    opField 0x4040 = 0x4 ∧ (0x4040 : Word).extractLsb' 6 6 ≠ 0 := by decide

theorem witness_HexRegistersAreHexChars : 0 < 8 ∧ 7 < 8 := by decide

/-- The character codes of a text. -/
def codes (text : String) : List CharCode := text.toList.map fun c => BitVec.ofNat 8 c.toNat

theorem witness_DecodeOfAnyText_length : (survivors config (codes "222-222")).length ≠ 17 ∧
    (survivors config (codes "222222222222222222")).length ≠ 17 := by decide

/-- Texts of V5, V6 and V7: a success, an overflow, a checksum failure. -/
theorem witness_DecodeOfAnyText_codewords :
    ((survivors config (codes "2223-2222-KB8Y-22222")).length = 17 ∧
      IsCodeword config (survivors config (codes "2223-2222-KB8Y-22222")) slotsOfOne ∧
      AllSyndromesZero config slotsOfOne ∧ slotsOfOne[12].toNat < 16) ∧
    ((survivors config (codes "2222-2222-TMT9-J2222")).length = 17 ∧
      IsCodeword config (survivors config (codes "2222-2222-TMT9-J2222")) slotsOverflowing ∧
      AllSyndromesZero config slotsOverflowing ∧ 16 ≤ slotsOverflowing[12].toNat) ∧
    ((survivors config (codes "2223-2222-KB8Y-22223")).length = 17 ∧
      IsCodeword config (survivors config (codes "2223-2222-KB8Y-22223")) slotsChanged ∧
      ¬ AllSyndromesZero config slotsChanged) := by
  unfold AllSyndromesZero IsCodeword; decide

theorem witness_CommandsDependOnUnitStateOnly : SameUnit finished { finished with responses := [⟨.ok, 7⟩] } :=
  ⟨rfl, rfl, rfl, rfl, rfl⟩

theorem witness_StepRunsTheDecodedCommand :
    ({ State.reset with inputs := [.command 0x2032] } : State).inputs = .command 0x2032 :: [] ∧
    decode 0x2032 = .ok (.push 0x32) := by decide

theorem witness_IllegalWordsAnsweredEIll : decode 0x0001 = .error .reservedBits ∧
    decode 0xA000 = .error .reservedOpcode ∧ decode 0x8000 = .error .reservedOperand := by decide

theorem witness_ReservedOperandTermsAnsweredEIll : (Instr.rd 0x04).wf = false ∧ (Instr.rd 0x3F).wf = false ∧
    (Instr.ldmap 17).wf = false ∧ (Instr.synd 0).wf = false ∧ (Instr.synd 5).wf = false := by decide

theorem witness_StateErrorsExactlyAsListed : Instr.chk.wf = true ∧
    last 0x9000 State.reset = some (.eState, 0) ∧ last 0x3000 finished = some (.eState, 0) := by decide

theorem witness_NoPartialResult : failed.ph ≠ .doneOk ∧ UnitInv config failed := ⟨by decide, failed_inv⟩

theorem witness_HardwareResetGivesResetState :
    ({ finished with inputs := [.reset] } : State).inputs = .reset :: [] ∧
    ({ finished with inputs := [.resetDuring 0x3000] } : State).inputs = .resetDuring 0x3000 :: [] := by decide

theorem witness_IdleStepChangesNothing : State.reset.inputs = [] := rfl

/-- The default tables with a character width of 7, the least that fits them, and of 16. -/
theorem witness_CharacterWidthAffectsNoCommand : config.CharwFits ∧
    ({ config with charw := 7 } : Config).CharwFits ∧ ({ config with charw := 16 } : Config).CharwFits ∧
    ¬ ({ config with charw := 6 } : Config).CharwFits := by decide

/-- With 16-bit characters U+0132 is not truncated to '2' (0x32): of it and a '3' only the '3' is counted (R80). -/
theorem witness_SlotsAfterTextOfAnyCharacterWidth : ({ config with charw := 16 } : Config).CwmapPermutes ∧
    survivorsOfText { config with charw := 16 } [0x0132#16, 0x0033#16] = [1] ∧
    pushText { config with charw := 16 } [0x0132#16, 0x0033#16] = [0x2033] := by decide

end Sys2Proof.Tests
end

section
/-! The statements of 00_scope.md: the idle step (R6) and the character width (R8). -/

namespace Sys2Proof.Machine

/-- Settles O56: with no next input to take, `step` is in its idle arm. -/
theorem idleStepChangesNothing : Obligations.IdleStepChangesNothing := by
  intro s hs
  have hnone : takeInput s = none := (takeInput_eq_none_iff s).2 hs
  simp only [step, hnone]

section CharacterWidth
variable {T : Config} {n : Nat} (hT : T.CharwFits) (hn : ({ T with charw := n } : Config).CharwFits)
include hT hn

/-- Both widths fit, so both lookups are the search of the same alphabet for the 8-bit field (40_mapper.md R71). -/
theorem mapLookup_withCharw (c : CharCode) : mapLookup { T with charw := n } c = mapLookup T c := by
  calc mapLookup { T with charw := n } c
      = symbols.find? (fun i => T.alphaAt i == c) := mapLookup_of_charwFits _ hn c
    _ = mapLookup T c := (mapLookup_of_charwFits T hT c).symm

theorem mapcEffect_withCharw (c : CharCode) (s : State) :
    mapcEffect { T with charw := n } c s = mapcEffect T c s := by
  rw [mapcEffect, mapLookup_withCharw hT hn, mapcEffect]

theorem pushEffect_withCharw (c : CharCode) (s : State) :
    pushEffect { T with charw := n } c s = pushEffect T c s := by
  have hstore (v : Symbol) : storeSymbol { T with charw := n } v s = storeSymbol T v s := rfl
  simp only [pushEffect, mapLookup_withCharw hT hn, hstore]

end CharacterWidth

/-- Settles O58: only PUSH and MAPC look a character up; every other command reads the four tables at most, which the two
configurations share. -/
theorem characterWidthAffectsNoCommand : Obligations.CharacterWidthAffectsNoCommand := by
  intro T n i s hT hn
  cases i with
  | push c => exact pushEffect_withCharw hT hn c s
  | mapc c => exact mapcEffect_withCharw hT hn c s
  | nop | rst | rd => rfl
  | gmul | ldexp | ldlog | ldalf | ldmap => rfl
  | fin | synd | chk => rfl

end Sys2Proof.Machine
end

section
/-! What one command word or one input can do to the unit, said once. -/

namespace Sys2Proof.Machine

/-! ## The machine runs the effects with its own tables -/

theorem exec_eq_effectWith (i : Instr) (s : State) : exec i s = .next (effectWith config i s) := by
  cases i <;> rfl

/-- A step on a command word is the word's effect with the machine's tables. -/
theorem step_presentCommand_eq (w : Word) (s : State) :
    step (presentCommand w s) = .next (wordEffectWith config w s) := by
  rw [step_presentCommand, wordEffectWith]
  cases decode w with
  | ok i => exact exec_eq_effectWith i s
  | error _ => rfl

theorem step_eq_stepWith (s : State) : step s = .next (stepWith config s) := by
  unfold step stepWith
  cases takeInput s with
  | none => rfl
  | some next =>
    obtain ⟨x, s'⟩ := next
    cases x with
    | command w => exact step_presentCommand_eq w s'
    | reset | resetDuring => rfl

/-- A hardware reset presented ahead of everything else clears the unit. -/
theorem step_reset (s : State) : step { s with inputs := .reset :: s.inputs } = .next (clearUnit s) := rfl

/-! ## Which commands only respond -/

theorem rdEffect_responds (r : BitVec 6) (s : State) : ∃ st d, rdEffect r s = respond st d s := by
  cases h : regOf r with
  | none => exact ⟨.eIll, 0, by simp only [rdEffect, h, rejectIll_eq]⟩
  | some x =>
    rcases rdEffect_of_some r x s h with ⟨d, _, hd⟩ | ⟨_, hd⟩
    · exact ⟨.ok, d, hd⟩
    · exact ⟨.eState, 0, hd⟩

theorem ldmapEffect_responds (T : Config) (i : Symbol) (s : State) : ∃ st d, ldmapEffect T i s = respond st d s := by
  cases h : mapIndex i with
  | none => exact ⟨.eIll, 0, by simp only [ldmapEffect, h, rejectIll_eq]⟩
  | some n => exact ⟨.ok, _, by simp only [ldmapEffect, h]; rfl⟩

theorem syndEffect_responds (T : Config) (c : BitVec 3) (s : State) : ∃ st d, syndEffect T c s = respond st d s := by
  cases h : checkIndex c with
  | none => exact ⟨.eIll, 0, by simp only [syndEffect, h, rejectIll_eq]⟩
  | some i =>
    rw [syndEffect_of_some T c i s h]
    split
    · exact ⟨_, _, rfl⟩
    · exact ⟨_, _, rejectState_eq s⟩

theorem chkEffect_responds (T : Config) (s : State) : ∃ st d, chkEffect T s = respond st d s := by
  rw [chkEffect_eq]
  split
  · exact ⟨_, _, rfl⟩
  · exact ⟨_, _, rejectState_eq s⟩

/-- All that a command can do: RST, PUSH and FIN have their effects, and every other command only responds
(20_memory.md R38). -/
theorem effectWith_cases (T : Config) (i : Instr) (s : State) :
    (i = .rst ∧ effectWith T i s = rstEffect s) ∨
    (∃ c, i = .push c ∧ effectWith T i s = pushEffect T c s) ∨
    (i = .fin ∧ effectWith T i s = finEffect T s) ∨
    (∃ st d, effectWith T i s = respond st d s) := by
  cases i with
  | rst => exact .inl ⟨rfl, rfl⟩
  | push c => exact .inr (.inl ⟨c, rfl, rfl⟩)
  | fin => exact .inr (.inr (.inl ⟨rfl, rfl⟩))
  | rd r => exact .inr (.inr (.inr (rdEffect_responds r s)))
  | ldmap k => exact .inr (.inr (.inr (ldmapEffect_responds T k s)))
  | synd k => exact .inr (.inr (.inr (syndEffect_responds T k s)))
  | chk => exact .inr (.inr (.inr (chkEffect_responds T s)))
  | nop | gmul | ldexp | ldlog | ldalf | mapc => exact .inr (.inr (.inr ⟨_, _, rfl⟩))

/-- All that a command word can do, legal or not. -/
theorem wordEffectWith_cases (T : Config) (w : Word) (s : State) :
    (decode w = .ok .rst ∧ wordEffectWith T w s = rstEffect s) ∨
    (∃ c, decode w = .ok (.push c) ∧ wordEffectWith T w s = pushEffect T c s) ∨
    (decode w = .ok .fin ∧ wordEffectWith T w s = finEffect T s) ∨
    (∃ st d, wordEffectWith T w s = respond st d s) := by
  unfold wordEffectWith
  cases decode w with
  | error _ => exact .inr (.inr (.inr ⟨_, _, rejectIll_eq s⟩))
  | ok i => simpa only [Except.ok.injEq] using effectWith_cases T i s

/-! ## PUSH and FIN by phase -/

theorem pushEffect_of_ne_collect (T : Config) (c : CharCode) (s : State) (h : s.ph ≠ .collect) :
    pushEffect T c s = rejectState s := if_pos h

theorem finEffect_of_ne_collect (T : Config) (s : State) (h : s.ph ≠ .collect) :
    finEffect T s = rejectState s := if_pos h

/-- FIN issued in COLLECT ends the collecting (10_state.md R16). -/
theorem finEffect_ph_of_collect (T : Config) (s : State) (h : s.ph = .collect) :
    (finEffect T s).ph = .doneOk ∨ (finEffect T s).ph = .fail := by
  rcases finEffect_cases T s with ⟨hne, _⟩ | ⟨_, _, he⟩ | ⟨_, _, _, he⟩ | ⟨_, _, _, _, he⟩ | ⟨_, _, _, _, he⟩
  · exact absurd h hne
  · exact .inr (he ▸ raiseError_ph _ s)
  · exact .inr (he ▸ raiseError_ph _ s)
  · exact .inr (he ▸ raiseError_ph _ s)
  · exact .inl (he ▸ finish_ph _ s)

end Sys2Proof.Machine
end

section
/-! The accumulator and the identifier as numbers (43_orchestrator.md R108 to R110). -/

namespace Sys2Proof.Machine

theorem toNat_append_eq_add {m n : Nat} (x : BitVec m) (y : BitVec n) :
    (x ++ y).toNat = x.toNat * 2 ^ n + y.toNat := by
  rw [BitVec.toNat_append, ← Nat.shiftLeft_add_eq_or_of_lt y.isLt, Nat.shiftLeft_eq]

/-- A running sum of bit vectors is the sum of their values, if that sum fits. -/
theorem foldl_add_toNat {α : Type} {w : Nat} (l : List α) (f : α → BitVec w) (a : BitVec w)
    (h : a.toNat + (l.map fun k => (f k).toNat).sum < 2 ^ w) :
    (l.foldl (fun acc k => acc + f k) a).toNat = a.toNat + (l.map fun k => (f k).toNat).sum := by
  induction l generalizing a with
  | nil => simp
  | cons x l ih =>
    simp only [List.map_cons, List.sum_cons, List.foldl_cons] at h ⊢
    have hx : (a + f x).toNat = a.toNat + (f x).toNat := BitVec.toNat_add_of_lt (by omega)
    rw [ih (a + f x) (by omega), hx, Nat.add_assoc]

/-- The term of a data slot fits 65 bits: 5 bits at bit `5 k`, with `k ≤ 12`. -/
theorem slotTerm_toNat (v : Symbol) (k : Nat) (hk : k < 13) :
    (v.setWidth 65 * BitVec.ofNat 65 (32 ^ k)).toNat = v.toNat * 32 ^ k := by
  have hv : v.toNat < 32 := v.isLt
  have hpow : 32 * 32 ^ k ≤ 2 ^ 65 := by
    calc 32 * 32 ^ k = 32 ^ (k + 1) := (Nat.pow_succ' ..).symm
      _ ≤ 32 ^ 13 := Nat.pow_le_pow_right (by decide) hk
      _ = 2 ^ 65 := by norm_num
  have hprod : v.toNat * 32 ^ k < 2 ^ 65 :=
    lt_of_lt_of_le (Nat.mul_lt_mul_of_pos_right hv (by positivity)) hpow
  rw [BitVec.toNat_mul, BitVec.toNat_setWidth, BitVec.toNat_ofNat, Nat.mod_eq_of_lt (a := v.toNat) (by omega),
    Nat.mod_eq_of_lt (a := 32 ^ k) (by omega), Nat.mod_eq_of_lt hprod]

/-- The data slots are 0..12; stated for any function, so that no power is evaluated on the way. -/
theorem sum_map_dataSlots (f : Fin 17 → Nat) : (dataSlots.map f).sum =
    f 0 + f 1 + f 2 + f 3 + f 4 + f 5 + f 6 + f 7 + f 8 + f 9 + f 10 + f 11 + f 12 := by
  have hslots : dataSlots = [0, 1, 2, 3, 4, 5, 6, 7, 8, 9, 10, 11, 12] := by decide
  simp only [hslots, List.map_cons, List.map_nil, List.sum_cons, List.sum_nil]
  omega

theorem weightedSum_eq_sum (cw : Vector Symbol 17) :
    weightedSum cw = (dataSlots.map fun k => cw[k.val].toNat * 32 ^ k.val).sum := by
  rw [sum_map_dataSlots]
  simp [weightedSum]

/-- The twelve low slots fill 60 bits; the identifier keeps 4 of the 5 bits of slot 12 above them. -/
theorem weightedSum_identifierOf_split (cw : Vector Symbol 17) : ∃ low < 2 ^ 60,
    weightedSum cw = cw[12].toNat * 2 ^ 60 + low ∧ (identifierOf cw).toNat = cw[12].toNat % 16 * 2 ^ 60 + low := by
  have h0 := cw[0].isLt; have h1 := cw[1].isLt; have h2 := cw[2].isLt; have h3 := cw[3].isLt
  have h4 := cw[4].isLt; have h5 := cw[5].isLt; have h6 := cw[6].isLt; have h7 := cw[7].isLt
  have h8 := cw[8].isLt; have h9 := cw[9].isLt; have h10 := cw[10].isLt; have h11 := cw[11].isLt
  refine ⟨weightedSum cw - cw[12].toNat * 2 ^ 60, ?_, ?_, ?_⟩ <;> unfold weightedSum
  · omega
  · omega
  · change BitVec.toNat (w := 4 + 5 + 5 + 5 + 5 + 5 + 5 + 5 + 5 + 5 + 5 + 5 + 5) (identifierOf cw) = _
    simp only [identifierOf, toNat_append_eq_add, BitVec.extractLsb'_toNat, Nat.shiftRight_zero]
    omega

theorem weightedSum_lt (cw : Vector Symbol 17) : weightedSum cw < 2 ^ 65 := by
  obtain ⟨low, hlow, hsum, _⟩ := weightedSum_identifierOf_split cw
  have := cw[12].isLt
  omega

/-- No carry leaves the 65 bits, so the accumulator is the exact sum (43_orchestrator.md R108). -/
theorem accumulate_toNat (cw : Vector Symbol 17) : (accumulate cw).toNat = weightedSum cw := by
  have hmem : ∀ k ∈ dataSlots, k.val < 13 := by decide
  have hterms : (dataSlots.map fun k => (cw[k.val].setWidth 65 * BitVec.ofNat 65 (32 ^ k.val)).toNat).sum =
      weightedSum cw := by
    rw [weightedSum_eq_sum, List.map_congr_left fun k hk => slotTerm_toNat cw[k.val] k.val (hmem k hk)]
  have hfold := foldl_add_toNat dataSlots (fun k => cw[k.val].setWidth 65 * BitVec.ofNat 65 (32 ^ k.val)) 0
  have hzero : (0 : BitVec 65).toNat = 0 := rfl
  rw [hterms, hzero, Nat.zero_add] at hfold
  exact hfold (weightedSum_lt cw)

/-- The overflow test is `CW[12] ≥ 16` (43_orchestrator.md R110). -/
theorem overflows_accumulate_iff (cw : Vector Symbol 17) :
    overflows (accumulate cw) = true ↔ 16 ≤ cw[12].toNat := by
  obtain ⟨low, hlow, hsum, _⟩ := weightedSum_identifierOf_split cw
  have h12 := cw[12].isLt
  rw [overflows, BitVec.getLsbD, accumulate_toNat, Nat.testBit_eq_decide_div_mod_eq, decide_eq_true_iff]
  omega

/-- The low 64 bits of the accumulator are the identifier (43_orchestrator.md R110). -/
theorem setWidth_accumulate (cw : Vector Symbol 17) : (accumulate cw).setWidth 64 = identifierOf cw := by
  obtain ⟨low, hlow, hsum, hid⟩ := weightedSum_identifierOf_split cw
  apply BitVec.eq_of_toNat_eq
  rw [BitVec.toNat_setWidth, accumulate_toNat, hid]
  omega

end Sys2Proof.Machine
end

section
/-! The statements of 10_state.md about the reset state and the tables (R27 to R33). -/

namespace Sys2Proof.Machine

theorem config_alphaDistinct : config.AlphaDistinct := by decide
theorem config_gexpGenerates : config.GexpGenerates := by decide
theorem config_glogInverts : config.GlogInverts := by decide
theorem config_cwmapPermutes : config.CwmapPermutes := by decide
theorem config_fieldAdditive : FieldAdditive config := by decide
theorem config_charwFits : config.CharwFits := by decide
theorem config_wellFormed : config.WellFormed :=
  ⟨config_alphaDistinct, config_gexpGenerates, config_glogInverts, config_cwmapPermutes⟩

/-- Settles O2: each condition is a check of finite tables. -/
theorem defaultTablesWellFormed : Obligations.DefaultTablesWellFormed :=
  ⟨config_wellFormed, config_fieldAdditive, rfl, config_charwFits⟩

theorem sameUnit_reset_clearUnit (s : State) : SameUnit State.reset (clearUnit s) := ⟨rfl, rfl, rfl, rfl, rfl⟩

/-- `STATUS` is a function of the unit's state. -/
theorem statusWord_of_sameUnit {s t : State} (h : SameUnit s t) : statusWord t = statusWord s := by
  obtain ⟨hph, herr, hcnt, -, -⟩ := h
  simp only [statusWord, cwv, hph, herr, hcnt]

theorem statusWord_reset : statusWord State.reset = 0 := by decide

theorem exec_rd_status (s : State) : exec (.rd 0x00) s = .next (answered .ok (statusWord s) s) := rfl

/-- Settles O1: hardware reset and RST both clear the unit, and STATUS reads the same in every unit with the reset
state. -/
theorem resetStateValues : Obligations.ResetStateValues := by
  refine ⟨by decide, fun s => ?_, fun s => ?_, fun s hs => ?_, ?_⟩
  · exact ⟨clearUnit s, step_reset s, sameUnit_reset_clearUnit s⟩
  · exact ⟨rstEffect s, exec_eq_effectWith .rst s, sameUnit_reset_clearUnit s⟩
  · rw [exec_rd_status, statusWord_of_sameUnit hs, statusWord_reset]
  · decide

end Sys2Proof.Machine
end

section
/-! The statements of 10_state.md about the invariants of R21: the unit has them at reset, and every input keeps them. -/

namespace Sys2Proof.Machine

section Invariant
variable {T : Config} {s t : State}

/-- The invariants speak of the unit's five items only. -/
theorem UnitInv.of_sameUnit (h : UnitInv T s) (hst : SameUnit s t) : UnitInv T t := by
  obtain ⟨hph, herr, hcnt, hcw, hid⟩ := hst
  obtain ⟨fail_iff, done, id_zero, too_short, counted, cnt_le, unwritten⟩ := h
  constructor <;> simpa only [hph, herr, hcnt, hcw, hid]

/-- The only phase with an error is FAIL. -/
theorem UnitInv.err_eq_none (h : UnitInv T s) (hph : s.ph ≠ .fail) : s.err = none :=
  not_not.1 fun herr => hph (h.fail_iff.2 herr)

/-- What the invariants ask of a unit that collects. -/
theorem unitInv_of_collect (hph : s.ph = .collect) (herr : s.err = none) (hid : s.id = 0) (hcnt : s.cnt.toNat ≤ 18)
    (hcw : ∀ n : Fin 17, s.cnt.toNat ≤ n.val → s.cw[(T.cwmapAt n).val] = 0) : UnitInv T s where
  fail_iff := by simp [hph, herr]
  done := by simp [hph]
  id_zero _ := hid
  too_short := by simp [herr]
  counted := by simp [herr]
  cnt_le := hcnt
  unwritten := hcw

theorem unitInv_clearUnit (T : Config) (s : State) : UnitInv T (clearUnit s) :=
  unitInv_of_collect rfl rfl rfl (by simp) (by simp)

theorem UnitInv.respond (h : UnitInv T s) (st : Status) (d : Data) : UnitInv T (respond st d s) :=
  h.of_sameUnit ⟨rfl, rfl, rfl, rfl, rfl⟩

/-- The slot of the next character is not the slot of a later one, as `CWMAP` is a permutation; so storing a symbol and
counting it leaves the slots of later characters 0. -/
theorem unwritten_countValid_storeSymbol (hT : T.CwmapPermutes) (h : UnitInv T s) (v : Symbol) (n : Fin 17)
    (hn : (countValid (storeSymbol T v s)).cnt.toNat ≤ n.val) :
    (countValid (storeSymbol T v s)).cw[(T.cwmapAt n).val] = 0 := by
  rw [countValid_toNat, storeSymbol_cnt] at hn
  have hlt : s.cnt.toNat < n.val := by split at hn <;> omega
  have hslot : T.cwmapAt ⟨s.cnt.toNat, by omega⟩ ≠ T.cwmapAt n := fun heq =>
    Nat.ne_of_lt hlt (congrArg Fin.val (hT _ _ heq))
  simp only [countValid_cw, storeSymbol_cw_of_lt T v s (by omega)]
  rw [Vector.getElem_set_ne _ _ fun heq => hslot (Fin.ext heq)]
  exact h.unwritten n hlt.le

theorem UnitInv.pushEffect (hT : T.CwmapPermutes) (h : UnitInv T s) (c : CharCode) : UnitInv T (pushEffect T c s) := by
  rcases pushEffect_cases T c s with ⟨_, he⟩ | ⟨_, _, he⟩ | ⟨hph, v, _, he⟩ <;> rw [he]
  · exact h.respond ..
  · exact h.respond ..
  · refine UnitInv.respond (unitInv_of_collect ?_ ?_ ?_ ?_ ?_) ..
    · simpa using hph
    · simpa using h.err_eq_none (by simp [hph])
    · simpa using h.id_zero (by simp [hph])
    · have := h.cnt_le
      rw [countValid_toNat, storeSymbol_cnt]
      split <;> omega
    · exact unwritten_countValid_storeSymbol hT h v

/-- An error leaves the count that caused it: `CNT ≠ 17` for the length, `CNT = 17` for the other two. -/
theorem UnitInv.raiseError (h : UnitInv T s) (hph : s.ph = .collect) (e : DecodeError)
    (he : e = .tooShort ↔ s.cnt ≠ 17) : UnitInv T (raiseError e s) where
  fail_iff := by simp
  done := by simp
  id_zero _ := h.id_zero (by simp [hph])
  too_short := by simpa using he.1
  counted hcause := by
    have hne : e ≠ .tooShort := by rcases hcause with hc | hc <;> simp_all
    exact not_not.1 fun hc => hne (he.2 hc)
  cnt_le := h.cnt_le
  unwritten := h.unwritten

/-- FIN passes a codeword whose accumulator does not overflow, so its slot 12 is below 16 and the accumulator's low 64
bits are the identifier. -/
theorem UnitInv.finish (h : UnitInv T s) (hph : s.ph = .collect) (hcnt : s.cnt = 17) (hv : valid T s.cw = true)
    (ho : overflows (accumulate s.cw) = false) : UnitInv T (finish (accumulate s.cw) s) where
  fail_iff := by simp [h.err_eq_none (by simp [hph])]
  done _ := by
    have h12 : ¬ 16 ≤ s.cw[12].toNat := by rw [← overflows_accumulate_iff, ho]; decide
    exact ⟨hcnt, hv, Nat.not_le.1 h12, setWidth_accumulate s.cw⟩
  id_zero := by simp
  too_short := by simp [h.err_eq_none (by simp [hph])]
  counted _ := hcnt
  cnt_le := h.cnt_le
  unwritten := h.unwritten

theorem UnitInv.finEffect (h : UnitInv T s) : UnitInv T (finEffect T s) := by
  rcases finEffect_cases T s with ⟨_, he⟩ | ⟨hph, hc, he⟩ | ⟨hph, hc, _, he⟩ | ⟨hph, hc, _, _, he⟩ |
    ⟨hph, hc, hv, ho, he⟩ <;> rw [he]
  · exact h.respond ..
  · exact h.raiseError hph _ (iff_of_true rfl hc)
  · exact h.raiseError hph _ (by simp [hc])
  · exact h.raiseError hph _ (by simp [hc])
  · exact h.finish hph hc hv ho

theorem UnitInv.wordEffectWith (hT : T.CwmapPermutes) (h : UnitInv T s) (w : Word) :
    UnitInv T (wordEffectWith T w s) := by
  rcases wordEffectWith_cases T w s with ⟨_, he⟩ | ⟨c, _, he⟩ | ⟨_, he⟩ | ⟨st, d, he⟩ <;> rw [he]
  · exact (unitInv_clearUnit T s).respond ..
  · exact h.pushEffect hT c
  · exact h.finEffect
  · exact h.respond st d

/-- Of the conditions of R31 only the fourth is needed: the arithmetic tables decide which codewords are valid, not what
FIN does with the answer. -/
theorem UnitInv.stepWith (hT : T.CwmapPermutes) (h : UnitInv T s) : UnitInv T (stepWith T s) := by
  unfold Machine.stepWith
  cases htake : takeInput s with
  | none => exact h
  | some next =>
    obtain ⟨x, t⟩ := next
    obtain ⟨rest, -, rfl⟩ := (takeInput_eq_some_iff s x t).1 htake
    have ht : UnitInv T { s with inputs := rest } := h.of_sameUnit ⟨rfl, rfl, rfl, rfl, rfl⟩
    cases x with
    | command w => exact ht.wordEffectWith hT w
    | reset | resetDuring => exact unitInv_clearUnit T _

end Invariant

/-- Settles O3: a unit that is cleared has the invariants, and reset is one. -/
theorem invariantAtReset : Obligations.InvariantAtReset := unitInv_clearUnit config State.reset

/-- Settles O5, by the cases of the next input. -/
theorem invariantKeptForEveryTableSet : Obligations.InvariantKeptForEveryTableSet := by
  intro T s hT h
  obtain ⟨-, -, -, hperm⟩ := hT
  exact h.stepWith hperm

/-- Settles O4: the machine is the unit with the default tables, whose `CWMAP` is a permutation. -/
theorem invariantKeptByEveryStep : Obligations.InvariantKeptByEveryStep := by
  intro s t h hstep
  rw [step_eq_stepWith] at hstep
  cases hstep
  exact h.stepWith config_cwmapPermutes

end Sys2Proof.Machine
end

section
/-! The statements of 10_state.md about which inputs write which item of state (R13, R16, R21). -/

namespace Sys2Proof.Machine

theorem sameUnit_respond (st : Status) (d : Data) (s : State) : SameUnit s (respond st d s) := ⟨rfl, rfl, rfl, rfl, rfl⟩

/-- Settles O6: of the commands, RST clears, FIN ends a COLLECT and is rejected in any other phase, and PUSH and the
commands that only respond leave the phase. -/
theorem phaseChangesOnlyByResetRstFin : Obligations.PhaseChangesOnlyByResetRstFin := by
  refine ⟨fun s => ⟨_, step_reset s, rfl⟩, fun s => ⟨_, exec_eq_effectWith .rst s, rfl⟩,
    fun s hs => ⟨_, exec_eq_effectWith .fin s, finEffect_ph_of_collect config s hs⟩,
    fun s w => ⟨_, step_presentCommand_eq w s, ?_⟩⟩
  rcases wordEffectWith_cases config w s with ⟨hd, he⟩ | ⟨c, _, he⟩ | ⟨hd, he⟩ | ⟨st, d, he⟩ <;> rw [he]
  · exact .inr (.inl ⟨hd, rfl⟩)
  · exact .inl (pushEffect_frame config c s).1
  · by_cases hs : s.ph = .collect
    · exact .inr (.inr ⟨hd, hs, finEffect_ph_of_collect config s hs⟩)
    · exact .inl (by rw [finEffect_of_ne_collect config s hs, rejectState_eq, respond_ph])
  · exact .inl rfl

/-- Settles O7: out of COLLECT, PUSH and FIN are rejected, and every other command but RST only responds. -/
theorem finishedDecodeFrozenUntilRst : Obligations.FinishedDecodeFrozenUntilRst := by
  intro s w hs hrst
  refine ⟨_, step_presentCommand_eq w s, ?_⟩
  rcases wordEffectWith_cases config w s with ⟨hd, _⟩ | ⟨c, _, he⟩ | ⟨_, he⟩ | ⟨st, d, he⟩
  · exact absurd hd hrst
  · rw [he, pushEffect_of_ne_collect config c s hs]; exact sameUnit_respond ..
  · rw [he, finEffect_of_ne_collect config s hs]; exact sameUnit_respond ..
  · rw [he]; exact sameUnit_respond ..

/-- Settles O8: the frames of PUSH and FIN, and the commands that only respond. -/
theorem eachItemHasItsWriters : Obligations.EachItemHasItsWriters := by
  intro s w
  refine ⟨_, step_presentCommand_eq w s, ?_⟩
  rcases wordEffectWith_cases config w s with ⟨hd, he⟩ | ⟨c, hd, he⟩ | ⟨hd, he⟩ | ⟨st, d, he⟩ <;> rw [he]
  · exact ⟨rfl, fun _ => .inl hd, fun _ => .inl hd⟩
  · obtain ⟨hph, herr, hid, hinputs⟩ := pushEffect_frame config c s
    exact ⟨hinputs, by simp [hph, herr, hid], fun _ => .inr ⟨c, hd⟩⟩
  · obtain ⟨hcw, hcnt, hinputs⟩ := finEffect_frame config s
    exact ⟨hinputs, fun _ => .inr hd, by simp [hcw, hcnt]⟩
  · simp

end Sys2Proof.Machine
end

section
/-! The statements of 20_memory.md about reads and responses (R38, R46). -/

namespace Sys2Proof.Machine

/-- Settles O9: of the cases of a command word, the three commands that write are excluded, which leaves a response. -/
theorem onlyRstPushFinWriteState : Obligations.OnlyRstPushFinWriteState := by
  intro s w hrst hfin hpush
  rcases wordEffectWith_cases config w s with ⟨hd, _⟩ | ⟨c, hd, _⟩ | ⟨hd, _⟩ | ⟨st, d, he⟩
  · exact absurd hd hrst
  · exact absurd hd (hpush c)
  · exact absurd hd hfin
  · exact ⟨st, d, by rw [step_presentCommand_eq, he]; rfl⟩

section Responses
variable (T : Config) (s : State)

theorem pushEffect_responses (c : CharCode) : ∃ r, (pushEffect T c s).responses = s.responses ++ [r] := by
  rcases pushEffect_cases T c s with ⟨_, he⟩ | ⟨_, _, he⟩ | ⟨_, v, _, he⟩ <;> rw [he]
  · exact ⟨_, rfl⟩
  · exact ⟨_, rfl⟩
  · exact ⟨⟨.ok, hitData (some v)⟩, by simp⟩

theorem finEffect_responses : ∃ r, (finEffect T s).responses = s.responses ++ [r] := by
  rcases finEffect_cases T s with ⟨_, he⟩ | ⟨_, _, he⟩ | ⟨_, _, _, he⟩ | ⟨_, _, _, _, he⟩ | ⟨_, _, _, _, he⟩ <;>
    exact ⟨_, congrArg State.responses he⟩

/-- A command word, legal or not, leaves the pending inputs and gives exactly one response, behind the earlier ones
(20_memory.md R46). -/
theorem wordEffectWith_answers (w : Word) : (wordEffectWith T w s).inputs = s.inputs ∧
    ∃ r, (wordEffectWith T w s).responses = s.responses ++ [r] := by
  rcases wordEffectWith_cases T w s with ⟨_, he⟩ | ⟨c, _, he⟩ | ⟨_, he⟩ | ⟨st, d, he⟩ <;> rw [he]
  · exact ⟨rfl, _, rfl⟩
  · obtain ⟨-, -, -, hinputs⟩ := pushEffect_frame T c s
    exact ⟨hinputs, pushEffect_responses T s c⟩
  · obtain ⟨-, -, hinputs⟩ := finEffect_frame T s
    exact ⟨hinputs, finEffect_responses T s⟩
  · exact ⟨rfl, _, rfl⟩

theorem commandCount_cons (x : HostInput) (xs : List HostInput) :
    commandCount (x :: xs) = commandCount [x] + commandCount xs := by
  cases x <;> simp [commandCount, Nat.add_comm]

/-- One input leaves those behind it and gives as many responses as it is commands: one for a command word, none for a
hardware reset. -/
theorem inputEffectWith_answers (x : HostInput) : (inputEffectWith T x s).inputs = s.inputs ∧
    ∃ rs, (inputEffectWith T x s).responses = s.responses ++ rs ∧ rs.length = commandCount [x] := by
  cases x with
  | command w =>
    obtain ⟨hinputs, r, hr⟩ := wordEffectWith_answers T s w
    exact ⟨hinputs, [r], hr, rfl⟩
  | reset | resetDuring => exact ⟨rfl, [], (List.append_nil _).symm, rfl⟩

theorem stepWith_of_cons (x : HostInput) (xs : List HostInput) (h : s.inputs = x :: xs) :
    stepWith T s = inputEffectWith T x { s with inputs := xs } := by
  have htake := (takeInput_eq_some_iff s x { s with inputs := xs }).2 ⟨xs, h, rfl⟩
  simp only [stepWith, htake]

end Responses

theorem run_succ (n : Nat) (s : State) :
    Host.Core.run Sys2Proof.core (n + 1) s = Host.Core.run Sys2Proof.core n (stepWith config s) := by
  have hstep : Sys2Proof.core.step s = .next (stepWith config s) := step_eq_stepWith s
  simp only [Host.Core.run, hstep]

/-- Settles O12, by induction on the inputs, each accepted by one step. -/
theorem oneResponsePerCommandInOrder : Obligations.OneResponsePerCommandInOrder := by
  intro s
  generalize hxs : s.inputs = xs
  induction xs generalizing s with
  | nil => exact ⟨s, [], rfl, hxs, (List.append_nil _).symm, rfl⟩
  | cons x xs ih =>
    obtain ⟨hinputs, rs, hrs, hlen⟩ := inputEffectWith_answers config { s with inputs := xs } x
    rw [← stepWith_of_cons config s x xs hxs] at hinputs hrs
    obtain ⟨t, rs', hrun, ht, hrs', hlen'⟩ := ih (stepWith config s) hinputs
    refine ⟨t, rs ++ rs', ?_, ht, ?_, ?_⟩
    · rw [List.length_cons, run_succ, hrun]
    · rw [hrs', hrs, List.append_assoc]
    · rw [List.length_append, hlen, hlen', commandCount_cons x xs]

end Sys2Proof.Machine
end

section
/-! The hexadecimal view of the identifier (20_memory.md R39, R40; 43_orchestrator.md R116, R117). -/

namespace Sys2Proof.Machine

theorem hexDigit_toNat (n : BitVec 4) :
    (hexDigit n).toNat = if n.toNat ≤ 9 then 0x30 + n.toNat else 0x61 + (n.toNat - 10) := by revert n; decide

theorem hexDigit_injective (m n : BitVec 4) (h : hexDigit m = hexDigit n) : m = n := by revert m n; decide

/-- The bits of hexadecimal digit `k`, as a number. -/
theorem extractLsb'_digit_toNat (id : Data) (k : Nat) (hk : k < 16) :
    (id.extractLsb' (60 - 4 * k) 4).toNat = id.toNat / 16 ^ (15 - k) % 16 := by
  have hpow : 2 ^ (60 - 4 * k) = 16 ^ (15 - k) := by
    rw [show 60 - 4 * k = 4 * (15 - k) by omega, pow_mul]; norm_num
  rw [BitVec.extractLsb'_toNat, Nat.shiftRight_eq_div_pow, hpow]

/-- The characters 0..n of `f`, packed as in the two registers: the first in the top byte. -/
def packChars (f : Nat → CharCode) : (n : Nat) → BitVec (8 * (n + 1))
  | 0 => f 0
  | n + 1 => packChars f n ++ f (n + 1)

theorem hexHi_eq_packChars (id : Data) : hexHi id = packChars (hexChar id) 7 := rfl
theorem hexLo_eq_packChars (id : Data) : hexLo id = packChars (fun k => hexChar id (8 + k)) 7 := rfl

theorem packChars_byte (f : Nat → CharCode) (n k : Nat) (hk : k ≤ n) :
    (packChars f n).extractLsb' (8 * (n - k)) 8 = f k := by
  induction n with
  | zero =>
    obtain rfl : k = 0 := by omega
    exact BitVec.extractLsb'_eq_self
  | succ n ih =>
    change BitVec.extractLsb' (8 * (n + 1 - k)) 8 (packChars f n ++ f (n + 1)) = f k
    rcases Nat.lt_or_ge n k with hlast | hbefore
    · obtain rfl : k = n + 1 := by omega
      rw [BitVec.extractLsb'_append_eq_of_add_le (by omega), Nat.sub_self]
      exact BitVec.extractLsb'_eq_self
    · rw [BitVec.extractLsb'_append_eq_of_le (by omega), show 8 * (n + 1 - k) - 8 = 8 * (n - k) by omega, ih hbefore]

/-- Character `k` of the whole view is byte `15 - k` of the two registers, in HEXHI for the first eight and in HEXLO for
the others. -/
theorem hexView_byte (id : Data) (k : Nat) (hk : k < 16) :
    (hexHi id ++ hexLo id).extractLsb' (8 * (15 - k)) 8 = hexChar id k := by
  rcases Nat.lt_or_ge k 8 with hlt | hge
  · rw [BitVec.extractLsb'_append_eq_of_le (by omega), hexHi_eq_packChars,
      show 8 * (15 - k) - 64 = 8 * (7 - k) by omega, packChars_byte _ 7 k (by omega)]
  · rw [BitVec.extractLsb'_append_eq_of_add_le (by omega), hexLo_eq_packChars,
      show 8 * (15 - k) = 8 * (7 - (k - 8)) by omega, packChars_byte _ 7 (k - 8) (by omega), Nat.add_sub_cancel' hge]

/-- Settles O10: byte `k` of the view is the code of digit `k`. -/
theorem hexViewMostSignificantDigitFirst : Obligations.HexViewMostSignificantDigitFirst := by
  intro id k hk character digit
  rw [show character = hexChar id k from hexView_byte id k hk, hexChar, hexDigit_toNat, extractLsb'_digit_toNat id k hk]

/-- The 16 digits are all the bits of a 64-bit value: bit `i` is in digit `15 - i / 4`. -/
theorem eq_of_digits_eq (a b : Data)
    (h : ∀ k < 16, a.extractLsb' (60 - 4 * k) 4 = b.extractLsb' (60 - 4 * k) 4) : a = b := by
  apply BitVec.eq_of_getLsbD_eq
  intro i hi
  have hbit := congrArg (fun v => v.getLsbD (i % 4)) (h (15 - i / 4) (by omega))
  have hpos : 60 - 4 * (15 - i / 4) + i % 4 = i := by omega
  simpa [BitVec.getLsbD_extractLsb', hpos, Nat.mod_lt i (show 0 < 4 by decide)] using hbit

/-- Settles O11: the registers give the characters, a character gives its digit, and the digits give the identifier. -/
theorem hexViewDeterminesIdentifier : Obligations.HexViewDeterminesIdentifier := by
  intro a b hhi hlo
  refine eq_of_digits_eq a b fun k hk => hexDigit_injective _ _ ?_
  calc hexChar a k = (hexHi a ++ hexLo a).extractLsb' (8 * (15 - k)) 8 := (hexView_byte a k hk).symm
    _ = (hexHi b ++ hexLo b).extractLsb' (8 * (15 - k)) 8 := by rw [hhi, hlo]
    _ = hexChar b k := hexView_byte b k hk

end Sys2Proof.Machine
end

section
/-! The decoder and the encoder as numbers (30_encoding.md R52 to R60): the decoder by opcode, the word of a command by the
opcode map, and the one fact that ties them: a word decodes to the well-formed command that has its number. -/

namespace Sys2Proof

/-! ## The decoder by opcode -/

section ByOpcode
variable {w : Word}

theorem decode_of_opcode_nop (h : (opField w).toNat = 0x0) : decode w = unlessReserved (argField w) (.ok .nop) := by
  simp only [decode, h]
theorem decode_of_opcode_rst (h : (opField w).toNat = 0x1) : decode w = unlessReserved (argField w) (.ok .rst) := by
  simp only [decode, h]
theorem decode_of_opcode_push (h : (opField w).toNat = 0x2) :
    decode w = unlessReserved (cReserved w) (.ok (.push (cField w))) := by simp only [decode, h]
theorem decode_of_opcode_fin (h : (opField w).toNat = 0x3) : decode w = unlessReserved (argField w) (.ok .fin) := by
  simp only [decode, h]
theorem decode_of_opcode_rd (h : (opField w).toNat = 0x4) :
    decode w = unlessReserved (rReserved w) (unlessOperandReserved (.rd (rField w))) := by simp only [decode, h]
theorem decode_of_opcode_gmul (h : (opField w).toNat = 0x5) :
    decode w = unlessReserved (mReserved w) (.ok (.gmul (aField w) (bField w))) := by simp only [decode, h]
theorem decode_of_opcode_tableLoad (h : (opField w).toNat = 0x6) :
    decode w = unlessReserved (lReserved w) (decodeTableLoad (tField w) (iField w)) := by simp only [decode, h]
theorem decode_of_opcode_mapc (h : (opField w).toNat = 0x7) :
    decode w = unlessReserved (cReserved w) (.ok (.mapc (cField w))) := by simp only [decode, h]
theorem decode_of_opcode_synd (h : (opField w).toNat = 0x8) :
    decode w = unlessReserved (sReserved w) (unlessOperandReserved (.synd (sField w))) := by simp only [decode, h]
theorem decode_of_opcode_chk (h : (opField w).toNat = 0x9) : decode w = unlessReserved (argField w) (.ok .chk) := by
  simp only [decode, h]

theorem decode_of_opcode_reserved (h : 0xA ≤ (opField w).toNat) : decode w = .error .reservedOpcode := by
  unfold decode
  split
  any_goals omega
  rfl

/-- A word that is not refused for its reserved bits has them 0. -/
theorem reserved_eq_zero_of_decode {n : Nat} {b : BitVec n} {r : Except Illegal Instr} (hw : decode w = unlessReserved b r)
    (h : decode w ≠ .error .reservedBits) : b.toNat = 0 := by
  have hb : b = 0 := by
    by_contra hb
    exact h (hw.trans (unlessReserved_of_ne b r hb))
  simp [hb]

/-- Format L: the selector and the index that the word's number holds decide. -/
theorem decode_eq_ok_iff_of_tableLoad {t : BitVec 2} {k : Symbol} {i : Instr}
    (h : w.toNat = 0x6000 + 32 * t.toNat + k.toNat) : decode w = .ok i ↔ decodeTableLoad t k = .ok i := by
  have ht : tField w = t := BitVec.eq_of_toNat_eq (by rw [tField_toNat]; omega)
  have hk : iField w = k := BitVec.eq_of_toNat_eq (by rw [iField_toNat]; omega)
  rw [decode_of_opcode_tableLoad (by rw [opField_toNat]; omega), unlessReserved_eq_ok, lReserved_toNat, ht, hk]
  exact and_iff_right (by omega)

end ByOpcode

/-! ## The legal operands as numbers -/

theorem legalReg_iff (r : BitVec 6) : legalReg r = true ↔ r.toNat ≤ 0x03 ∨ 0x10 ≤ r.toNat ∧ r.toNat ≤ 0x20 := by
  simp [legalReg]

theorem legalMapIndex_iff (i : Symbol) : legalMapIndex i = true ↔ i.toNat ≤ 16 := by simp [legalMapIndex]

theorem legalCheck_iff (s : BitVec 3) : legalCheck s = true ↔ 1 ≤ s.toNat ∧ s.toNat ≤ 4 := by simp [legalCheck]

/-! ## The word of a command as a number -/

/-- The word of a command as a number: the opcode map (30_encoding.md R53 to R59). -/
def wordNumber : Instr → Nat
  | .nop => 0x0000
  | .rst => 0x1000
  | .push c => 0x2000 + c.toNat
  | .fin => 0x3000
  | .rd r => 0x4000 + r.toNat
  | .gmul a b => 0x5000 + 32 * a.toNat + b.toNat
  | .ldexp i => 0x6000 + i.toNat
  | .ldlog i => 0x6020 + i.toNat
  | .ldalf i => 0x6040 + i.toNat
  | .ldmap i => 0x6060 + i.toNat
  | .mapc c => 0x7000 + c.toNat
  | .synd s => 0x8000 + s.toNat
  | .chk => 0x9000

/-- In each format the operand stands in the lowest bits, behind a constant. -/
theorem encode_toNat (i : Instr) : (encode i).toNat = wordNumber i := by
  cases i with
  | nop | rst | fin | chk => rfl
  | push c => exact Machine.toNat_append_eq_add (0x2#4 ++ 0#4) c
  | rd r => exact Machine.toNat_append_eq_add (0x4#4 ++ 0#6) r
  | gmul a b =>
    have happend : (encode (.gmul a b)).toNat = (0x5#4 ++ 0#2 ++ a).toNat * 2 ^ 5 + b.toNat :=
      Machine.toNat_append_eq_add (0x5#4 ++ 0#2 ++ a) b
    have hconst : (0x5#4 ++ 0#2).toNat = 0x14 := rfl
    rw [happend, Machine.toNat_append_eq_add, hconst, wordNumber]
    omega
  | ldexp i => exact Machine.toNat_append_eq_add (0x6#4 ++ 0#5 ++ 0#2) i
  | ldlog i => exact Machine.toNat_append_eq_add (0x6#4 ++ 0#5 ++ 1#2) i
  | ldalf i => exact Machine.toNat_append_eq_add (0x6#4 ++ 0#5 ++ 2#2) i
  | ldmap i => exact Machine.toNat_append_eq_add (0x6#4 ++ 0#5 ++ 3#2) i
  | mapc c => exact Machine.toNat_append_eq_add (0x7#4 ++ 0#4) c
  | synd s => exact Machine.toNat_append_eq_add (0x8#4 ++ 0#9) s

/-! ## Decoding is finding the command with the word's number -/

/-- A word that decodes to a command is legal and has the command's number. -/
theorem wordNumber_of_decode {w : Word} {i : Instr} (h : decode w = .ok i) : i.wf = true ∧ w.toNat = wordNumber i := by
  rcases decode_eq_ok_cases w i h with ⟨hw, rfl⟩ | ⟨hw, rfl⟩ | ⟨c, rfl, hw⟩ | ⟨hw, rfl⟩ | ⟨r, rfl, hr, hw⟩ |
    ⟨a, b, rfl, hw⟩ | ⟨k, rfl, hw⟩ | ⟨k, rfl, hw⟩ | ⟨k, rfl, hw⟩ | ⟨k, rfl, hk, hw⟩ | ⟨c, rfl, hw⟩ | ⟨k, rfl, hk, hw⟩ |
    ⟨hw, rfl⟩ <;> refine ⟨?_, hw⟩
  any_goals rfl
  · exact hr
  · exact (legalMapIndex_iff k).2 hk
  · exact hk

/-- The converse: the number fixes the opcode, the reserved bits and the operand fields. -/
theorem decode_of_wordNumber {w : Word} {i : Instr} (hi : i.wf = true) (h : w.toNat = wordNumber i) :
    decode w = .ok i := by
  have hw : w = encode i := BitVec.eq_of_toNat_eq (h.trans (encode_toNat i).symm)
  cases i <;> simp only [wordNumber] at h
  case nop | rst | fin | chk => rw [hw]; rfl
  case push c =>
    have hc : cField w = c := BitVec.eq_of_toNat_eq (by rw [cField_toNat]; omega)
    rw [decode_of_opcode_push (by rw [opField_toNat]; omega), unlessReserved_eq_ok, cReserved_toNat, hc]
    exact ⟨by omega, rfl⟩
  case rd r =>
    have hr : rField w = r := BitVec.eq_of_toNat_eq (by rw [rField_toNat]; omega)
    rw [decode_of_opcode_rd (by rw [opField_toNat]; omega), unlessReserved_eq_ok, unlessOperandReserved_eq_ok,
      rReserved_toNat, hr]
    exact ⟨by omega, hi, rfl⟩
  case gmul a b =>
    have ha : aField w = a := BitVec.eq_of_toNat_eq (by rw [aField_toNat]; omega)
    have hb : bField w = b := BitVec.eq_of_toNat_eq (by rw [bField_toNat]; omega)
    rw [decode_of_opcode_gmul (by rw [opField_toNat]; omega), unlessReserved_eq_ok, mReserved_toNat, ha, hb]
    exact ⟨by omega, rfl⟩
  case ldexp k => exact (decode_eq_ok_iff_of_tableLoad (t := 0) h).2 rfl
  case ldlog k => exact (decode_eq_ok_iff_of_tableLoad (t := 1) h).2 rfl
  case ldalf k => exact (decode_eq_ok_iff_of_tableLoad (t := 2) h).2 rfl
  case ldmap k => exact (decode_eq_ok_iff_of_tableLoad (t := 3) h).2 (if_pos hi)
  case mapc c =>
    have hc : cField w = c := BitVec.eq_of_toNat_eq (by rw [cField_toNat]; omega)
    rw [decode_of_opcode_mapc (by rw [opField_toNat]; omega), unlessReserved_eq_ok, cReserved_toNat, hc]
    exact ⟨by omega, rfl⟩
  case synd s =>
    have hs : sField w = s := BitVec.eq_of_toNat_eq (by rw [sField_toNat]; omega)
    rw [decode_of_opcode_synd (by rw [opField_toNat]; omega), unlessReserved_eq_ok, unlessOperandReserved_eq_ok,
      sReserved_toNat, hs]
    exact ⟨by omega, hi, rfl⟩

/-- Settles O13: the word of a command has the command's number, and the number fixes the command. -/
theorem decodeOfEncodeIsIdentity : Obligations.DecodeOfEncodeIsIdentity :=
  fun i hi => decode_of_wordNumber hi (encode_toNat i)

/-- Settles O14: the word and the word of the command it decodes to have the same number. -/
theorem encodeOfDecodeIsIdentity : Obligations.EncodeOfDecodeIsIdentity := by
  intro w i h
  obtain ⟨hi, hw⟩ := wordNumber_of_decode h
  exact ⟨hi, BitVec.eq_of_toNat_eq ((encode_toNat i).trans hw.symm)⟩

/-- Settles O15: the opcode map is the number of each command's word. -/
theorem commandWordsOfOpcodeMap : Obligations.CommandWordsOfOpcodeMap := by
  simp only [Obligations.CommandWordsOfOpcodeMap, encode_toNat, wordNumber, and_self, implies_true]

/-- Settles O16: each word has the number of its command. -/
theorem sampleWordsDecode : Obligations.SampleWordsDecode := by
  refine ⟨?_, ?_, ?_, ?_, ?_, ?_, ?_, ?_, ?_, ?_, ?_, ?_⟩ <;> exact decode_of_wordNumber rfl rfl

/-! ## The legal words -/

/-- The number of a legal word, by the ranges of 30_encoding.md R66. -/
def LegalNumber (n : Nat) : Prop :=
  n = 0x0000 ∨ n = 0x1000 ∨ (0x2000 ≤ n ∧ n < 0x2100) ∨ n = 0x3000 ∨ (0x4000 ≤ n ∧ n < 0x4004) ∨
  (0x4010 ≤ n ∧ n < 0x4021) ∨ (0x5000 ≤ n ∧ n < 0x5400) ∨ (0x6000 ≤ n ∧ n < 0x6060) ∨ (0x6060 ≤ n ∧ n < 0x6071) ∨
  (0x7000 ≤ n ∧ n < 0x7100) ∨ (0x8001 ≤ n ∧ n < 0x8005) ∨ n = 0x9000

theorem legalNumber_wordNumber (i : Instr) (hi : i.wf = true) : LegalNumber (wordNumber i) := by
  unfold LegalNumber
  cases i <;> simp only [wordNumber]
  case rd r => have hr := (legalReg_iff r).1 hi; omega
  case ldmap k => have hk := (legalMapIndex_iff k).1 hi; omega
  case synd s => have hs := (legalCheck_iff s).1 hi; omega
  case nop | rst | fin | chk => decide
  all_goals omega

theorem exists_wordNumber_eq (n : Nat) (hn : LegalNumber n) : ∃ i : Instr, i.wf = true ∧ wordNumber i = n := by
  have htoNat {m k : Nat} (hk : k < 2 ^ m) : (BitVec.ofNat m k).toNat = k := by
    rw [BitVec.toNat_ofNat, Nat.mod_eq_of_lt hk]
  rcases hn with rfl | rfl | ⟨hge, hlt⟩ | rfl | ⟨hge, hlt⟩ | ⟨hge, hlt⟩ | ⟨hge, hlt⟩ | ⟨hge, hlt⟩ | ⟨hge, hlt⟩ |
    ⟨hge, hlt⟩ | ⟨hge, hlt⟩ | rfl
  · exact ⟨.nop, rfl, rfl⟩
  · exact ⟨.rst, rfl, rfl⟩
  · exact ⟨.push (BitVec.ofNat 8 (n - 0x2000)), rfl, by rw [wordNumber, htoNat (by omega)]; omega⟩
  · exact ⟨.fin, rfl, rfl⟩
  · have hr : (BitVec.ofNat 6 (n - 0x4000)).toNat = n - 0x4000 := htoNat (by omega)
    exact ⟨.rd _, (legalReg_iff _).2 (by rw [hr]; omega), by rw [wordNumber, hr]; omega⟩
  · have hr : (BitVec.ofNat 6 (n - 0x4000)).toNat = n - 0x4000 := htoNat (by omega)
    exact ⟨.rd _, (legalReg_iff _).2 (by rw [hr]; omega), by rw [wordNumber, hr]; omega⟩
  · refine ⟨.gmul (BitVec.ofNat 5 ((n - 0x5000) / 32)) (BitVec.ofNat 5 (n % 32)), rfl, ?_⟩
    rw [wordNumber, htoNat (by omega), htoNat (by omega)]
    omega
  · obtain hlow | hmid | hhigh : n < 0x6020 ∨ (0x6020 ≤ n ∧ n < 0x6040) ∨ 0x6040 ≤ n := by omega
    · exact ⟨.ldexp (BitVec.ofNat 5 (n - 0x6000)), rfl, by rw [wordNumber, htoNat (by omega)]; omega⟩
    · exact ⟨.ldlog (BitVec.ofNat 5 (n - 0x6020)), rfl, by rw [wordNumber, htoNat (by omega)]; omega⟩
    · exact ⟨.ldalf (BitVec.ofNat 5 (n - 0x6040)), rfl, by rw [wordNumber, htoNat (by omega)]; omega⟩
  · have hk : (BitVec.ofNat 5 (n - 0x6060)).toNat = n - 0x6060 := htoNat (by omega)
    exact ⟨.ldmap _, (legalMapIndex_iff _).2 (by rw [hk]; omega), by rw [wordNumber, hk]; omega⟩
  · exact ⟨.mapc (BitVec.ofNat 8 (n - 0x7000)), rfl, by rw [wordNumber, htoNat (by omega)]; omega⟩
  · have hs : (BitVec.ofNat 3 (n - 0x8000)).toNat = n - 0x8000 := htoNat (by omega)
    exact ⟨.synd _, (legalCheck_iff _).2 (by rw [hs]; omega), by rw [wordNumber, hs]; omega⟩
  · exact ⟨.chk, rfl, rfl⟩

theorem decode_isOk_iff (w : Word) : (∃ i, decode w = .ok i) ↔ LegalNumber w.toNat := by
  constructor
  · rintro ⟨i, h⟩
    obtain ⟨hi, hw⟩ := wordNumber_of_decode h
    exact hw ▸ legalNumber_wordNumber i hi
  · intro h
    obtain ⟨i, hi, hw⟩ := exists_wordNumber_eq w.toNat h
    exact ⟨i, decode_of_wordNumber hi hw.symm⟩

/-- Settles O20: the legal words are the twelve ranges, whose sizes are added up. -/
theorem legalWordCount : Obligations.LegalWordCount := by
  refine ⟨fun w => (decode_isOk_iff w).trans ?_, by decide, by decide⟩
  simp only [LegalNumber, List.mem_cons, List.not_mem_nil, or_false, exists_eq_or_imp, exists_eq_left]
  omega

end Sys2Proof
end

section
/-! The statements of 30_encoding.md about the words and operands that are rejected (R63 to R65). -/

namespace Sys2Proof.Machine

/-! ## Illegal words -/

/-- A step on a word that does not decode only rejects it (60_exceptions.md R131). -/
theorem illWord_of_decode_eq_error {w : Word} {e : Illegal} (h : decode w = .error e) : IllWord w := by
  intro s
  rw [step_presentCommand_eq, wordEffectWith, h]
  rfl

theorem illWord_of_not_legalNumber {w : Word} (h : ¬ LegalNumber w.toNat) : IllWord w := by
  cases hd : decode w with
  | error e => exact illWord_of_decode_eq_error hd
  | ok i => exact absurd ((decode_isOk_iff w).1 ⟨i, hd⟩) h

theorem illWord_of_reserved_ne_zero {w : Word} {n : Nat} {b : BitVec n} {r : Except Illegal Instr}
    (hw : decode w = unlessReserved b r) (hb : b ≠ 0) : IllWord w :=
  illWord_of_decode_eq_error (hw.trans (unlessReserved_of_ne b r hb))

/-- Settles O17: the decoder refuses every opcode from 0xA up. -/
theorem reservedOpcodesRejected : Obligations.ReservedOpcodesRejected :=
  ⟨fun _ h => illWord_of_decode_eq_error (decode_of_opcode_reserved h), rfl⟩

/-- Settles O18: the decoder of each opcode looks at the reserved bits of its format first. -/
theorem reservedBitsRejected : Obligations.ReservedBitsRejected := by
  intro w
  refine ⟨fun hop hb => ?formatN, fun hop hb => ?formatC,
    fun hop => illWord_of_reserved_ne_zero (decode_of_opcode_rd (congrArg BitVec.toNat hop)),
    fun hop => illWord_of_reserved_ne_zero (decode_of_opcode_gmul (congrArg BitVec.toNat hop)),
    fun hop => illWord_of_reserved_ne_zero (decode_of_opcode_tableLoad (congrArg BitVec.toNat hop)),
    fun hop => illWord_of_reserved_ne_zero (decode_of_opcode_synd (congrArg BitVec.toNat hop))⟩
  case formatN =>
    simp only [List.mem_cons, List.not_mem_nil, or_false] at hop
    rcases hop with hop | hop | hop | hop
    · exact illWord_of_reserved_ne_zero (decode_of_opcode_nop (congrArg BitVec.toNat hop)) hb
    · exact illWord_of_reserved_ne_zero (decode_of_opcode_rst (congrArg BitVec.toNat hop)) hb
    · exact illWord_of_reserved_ne_zero (decode_of_opcode_fin (congrArg BitVec.toNat hop)) hb
    · exact illWord_of_reserved_ne_zero (decode_of_opcode_chk (congrArg BitVec.toNat hop)) hb
  case formatC =>
    simp only [List.mem_cons, List.not_mem_nil, or_false] at hop
    rcases hop with hop | hop
    · exact illWord_of_reserved_ne_zero (decode_of_opcode_push (congrArg BitVec.toNat hop)) hb
    · exact illWord_of_reserved_ne_zero (decode_of_opcode_mapc (congrArg BitVec.toNat hop)) hb

/-- Where a word with a defined opcode and zero reserved bits can lie: the opcode, and its operand bits below. -/
theorem toNat_of_reserved_bits_zero (w : Word) (hop : (opField w).toNat ≤ 0x9) (h : decode w ≠ .error .reservedBits) :
    w.toNat = 0x0000 ∨ w.toNat = 0x1000 ∨ (0x2000 ≤ w.toNat ∧ w.toNat < 0x2100) ∨ w.toNat = 0x3000 ∨
    (0x4000 ≤ w.toNat ∧ w.toNat < 0x4040) ∨ (0x5000 ≤ w.toNat ∧ w.toNat < 0x5400) ∨
    (0x6000 ≤ w.toNat ∧ w.toNat < 0x6080) ∨ (0x7000 ≤ w.toNat ∧ w.toNat < 0x7100) ∨
    (0x8000 ≤ w.toNat ∧ w.toNat < 0x8008) ∨ w.toNat = 0x9000 := by
  have hop' := opField_toNat w
  interval_cases hv : (opField w).toNat
  · have hz := reserved_eq_zero_of_decode (decode_of_opcode_nop hv) h
    rw [argField_toNat] at hz; omega
  · have hz := reserved_eq_zero_of_decode (decode_of_opcode_rst hv) h
    rw [argField_toNat] at hz; omega
  · have hz := reserved_eq_zero_of_decode (decode_of_opcode_push hv) h
    rw [cReserved_toNat] at hz; omega
  · have hz := reserved_eq_zero_of_decode (decode_of_opcode_fin hv) h
    rw [argField_toNat] at hz; omega
  · have hz := reserved_eq_zero_of_decode (decode_of_opcode_rd hv) h
    rw [rReserved_toNat] at hz; omega
  · have hz := reserved_eq_zero_of_decode (decode_of_opcode_gmul hv) h
    rw [mReserved_toNat] at hz; omega
  · have hz := reserved_eq_zero_of_decode (decode_of_opcode_tableLoad hv) h
    rw [lReserved_toNat] at hz; omega
  · have hz := reserved_eq_zero_of_decode (decode_of_opcode_mapc hv) h
    rw [cReserved_toNat] at hz; omega
  · have hz := reserved_eq_zero_of_decode (decode_of_opcode_synd hv) h
    rw [sReserved_toNat] at hz; omega
  · have hz := reserved_eq_zero_of_decode (decode_of_opcode_chk hv) h
    rw [argField_toNat] at hz; omega

/-- Settles O19: the reserved operands are what is left of the words with zero reserved bits when the legal ones are
taken out. -/
theorem reservedOperandsRejected : Obligations.ReservedOperandsRejected := by
  intro w hop hbits n reserved
  have hrange := toNat_of_reserved_bits_zero w hop hbits
  constructor
  · intro (hreserved : _ ∨ _)
    refine illWord_of_not_legalNumber ?_
    unfold LegalNumber
    omega
  · intro hreserved
    refine (decode_isOk_iff w).2 ?_
    unfold LegalNumber
    omega

/-! ## Reserved operands of a command term -/

theorem rdEffect_of_reserved (r : BitVec 6) (s : State) (h : legalReg r = false) : rdEffect r s = rejectIll s := by
  have hnone : regOf r = none := Option.not_isSome_iff_eq_none.1 (by rw [regOf_isSome, h]; decide)
  simp only [rdEffect, hnone]

theorem ldmapEffect_of_reserved (T : Config) (i : Symbol) (s : State) (h : legalMapIndex i = false) :
    ldmapEffect T i s = rejectIll s := by
  have hnone : mapIndex i = none := Option.not_isSome_iff_eq_none.1 (by rw [mapIndex_isSome, h]; decide)
  simp only [ldmapEffect, hnone]

theorem syndEffect_of_reserved (T : Config) (c : BitVec 3) (s : State) (h : legalCheck c = false) :
    syndEffect T c s = rejectIll s := by
  have hnone : checkIndex c = none := Option.not_isSome_iff_eq_none.1 (by rw [checkIndex_isSome, h]; decide)
  simp only [syndEffect, hnone]

theorem effectWith_of_reserved (T : Config) (i : Instr) (s : State) (h : i.wf = false) :
    effectWith T i s = rejectIll s := by
  cases i with
  | rd r => exact rdEffect_of_reserved r s h
  | ldmap k => exact ldmapEffect_of_reserved T k s h
  | synd c => exact syndEffect_of_reserved T c s h
  | nop | rst | push | fin | gmul | ldexp | ldlog | ldalf | mapc | chk => cases h

/-- Settles O52: only RD, LDMAP and SYND have reserved operands, and each rejects them. -/
theorem reservedOperandTermsAnsweredEIll : Obligations.ReservedOperandTermsAnsweredEIll := by
  intro i s h
  rw [exec_eq_effectWith, effectWith_of_reserved config i s h]
  rfl

end Sys2Proof.Machine
end

section
/-! The status codes and the commands that produce them (30_encoding.md R61). -/

namespace Sys2Proof.Machine

/-- The commands that can be rejected for the unit's state (60_exceptions.md R132). -/
def ChecksState (i : Instr) : Prop :=
  i = .fin ∨ i = .chk ∨ (∃ c, i = .push c) ∨ (∃ r, i = .rd r) ∨ ∃ c, i = .synd c

/-- The answer `r` that command `i` may give, `t` being the state it leaves: success, a rejection for the state by a
command that checks it, or a decode error raised by FIN and left in `ERR`. -/
inductive Answer (i : Instr) (t : State) : Response → Prop where
  | ok (d : Data) : Answer i t ⟨.ok, d⟩
  | eState (h : ChecksState i) : Answer i t ⟨.eState, 0⟩
  | raised (e : DecodeError) (hi : i = .fin) (herr : t.err = some e) : Answer i t ⟨e.status, 0⟩

/-- The state `t` is `s` after one answer of `i`. -/
def Answers (i : Instr) (s t : State) : Prop := ∃ r, t.responses = s.responses ++ [r] ∧ Answer i t r

theorem answers_of_eq_respond_ok {i : Instr} {s t : State} {d : Data} (h : t = respond .ok d s) : Answers i s t :=
  ⟨⟨.ok, d⟩, congrArg State.responses h, .ok d⟩

theorem answers_of_eq_rejectState {i : Instr} {s t : State} (hi : ChecksState i) (h : t = rejectState s) : Answers i s t :=
  ⟨⟨.eState, 0⟩, congrArg State.responses h, .eState hi⟩

theorem answers_fin_of_eq_raiseError {e : DecodeError} {s t : State} (h : t = raiseError e s) : Answers .fin s t :=
  ⟨⟨e.status, 0⟩, congrArg State.responses h, .raised e rfl (congrArg State.err h)⟩

section Effects
variable (T : Config) (s : State)

theorem pushEffect_answers (c : CharCode) : Answers (.push c) s (pushEffect T c s) := by
  rcases pushEffect_cases T c s with ⟨_, he⟩ | ⟨_, _, he⟩ | ⟨_, v, _, he⟩
  · exact answers_of_eq_rejectState (.inr (.inr (.inl ⟨c, rfl⟩))) he
  · exact answers_of_eq_respond_ok he
  · exact ⟨⟨.ok, hitData (some v)⟩, by simp [he], .ok _⟩

theorem finEffect_answers : Answers .fin s (finEffect T s) := by
  rcases finEffect_cases T s with ⟨_, he⟩ | ⟨_, _, he⟩ | ⟨_, _, _, he⟩ | ⟨_, _, _, _, he⟩ | ⟨_, _, _, _, he⟩
  · exact answers_of_eq_rejectState (.inl rfl) he
  · exact answers_fin_of_eq_raiseError he
  · exact answers_fin_of_eq_raiseError he
  · exact answers_fin_of_eq_raiseError he
  · exact ⟨⟨.ok, _⟩, congrArg State.responses he, .ok _⟩

theorem rdEffect_answers (r : BitVec 6) (h : legalReg r = true) : Answers (.rd r) s (rdEffect r s) := by
  obtain ⟨x, hx⟩ := Option.isSome_iff_exists.1 ((regOf_isSome r).trans h)
  rcases rdEffect_of_some r x s hx with ⟨d, _, he⟩ | ⟨_, he⟩
  · exact answers_of_eq_respond_ok he
  · exact answers_of_eq_rejectState (.inr (.inr (.inr (.inl ⟨r, rfl⟩)))) he

theorem ldmapEffect_of_some (k : Symbol) (n : Fin 17) (h : mapIndex k = some n) :
    ldmapEffect T k s = respond .ok (zext64 (BitVec.ofNat 5 (T.cwmapAt n).val)) s := by
  simp only [ldmapEffect, h]

theorem ldmapEffect_answers (k : Symbol) (h : legalMapIndex k = true) : Answers (.ldmap k) s (ldmapEffect T k s) := by
  obtain ⟨n, hn⟩ := Option.isSome_iff_exists.1 ((mapIndex_isSome k).trans h)
  exact answers_of_eq_respond_ok (ldmapEffect_of_some T s k n hn)

theorem syndEffect_answers (c : BitVec 3) (h : legalCheck c = true) : Answers (.synd c) s (syndEffect T c s) := by
  obtain ⟨n, hn⟩ := Option.isSome_iff_exists.1 ((checkIndex_isSome c).trans h)
  have he := syndEffect_of_some T c n s hn
  by_cases hcnt : s.cnt = 17
  · exact answers_of_eq_respond_ok (he.trans (if_pos hcnt))
  · exact answers_of_eq_rejectState (.inr (.inr (.inr (.inr ⟨c, rfl⟩)))) (he.trans (if_neg hcnt))

theorem chkEffect_answers : Answers .chk s (chkEffect T s) := by
  have he := chkEffect_eq T s
  by_cases hcnt : s.cnt = 17
  · exact answers_of_eq_respond_ok (he.trans (if_pos hcnt))
  · exact answers_of_eq_rejectState (.inr (.inl rfl)) (he.trans (if_neg hcnt))

theorem effectWith_answers (i : Instr) (hi : i.wf = true) : Answers i s (effectWith T i s) := by
  cases i with
  | push c => exact pushEffect_answers T s c
  | fin => exact finEffect_answers T s
  | rd r => exact rdEffect_answers s r hi
  | ldmap k => exact ldmapEffect_answers T s k hi
  | synd c => exact syndEffect_answers T s c hi
  | chk => exact chkEffect_answers T s
  | rst => exact ⟨⟨.ok, 0⟩, rfl, .ok 0⟩
  | nop | gmul | ldexp | ldlog | ldalf | mapc => exact answers_of_eq_respond_ok rfl

end Effects

/-! ## Every command succeeds in some state -/

/-- A unit that has collected the codeword of identifier 0. -/
def zerosCollected : State := { State.reset with cnt := 17 }

/-- A unit that has finished a decode of identifier 0. -/
def zerosFinished : State := { zerosCollected with ph := .doneOk }

theorem finEffect_zerosCollected : finEffect config zerosCollected = finish 0 zerosCollected := by decide

theorem exists_ok_answer (i : Instr) (hi : i.wf = true) :
    ∃ s d, (effectWith config i s).responses = s.responses ++ [⟨.ok, d⟩] := by
  cases i with
  | push c =>
    rcases pushEffect_cases config c zerosCollected with ⟨hph, _⟩ | ⟨_, _, he⟩ | ⟨_, v, _, he⟩
    · exact absurd rfl hph
    · exact ⟨zerosCollected, 0, congrArg State.responses he⟩
    · exact ⟨zerosCollected, hitData (some v), by simp [effectWith, he]⟩
  | fin => exact ⟨zerosCollected, 0, congrArg State.responses finEffect_zerosCollected⟩
  | rd r =>
    obtain ⟨x, hx⟩ := Option.isSome_iff_exists.1 ((regOf_isSome r).trans hi)
    rcases rdEffect_of_some r x zerosFinished hx with ⟨d, _, he⟩ | ⟨hnone, _⟩
    · exact ⟨zerosFinished, d, congrArg State.responses he⟩
    · obtain ⟨_, hph⟩ := (readReg_eq_none_iff x zerosFinished).1 hnone
      exact absurd rfl hph
  | ldmap k =>
    obtain ⟨n, hn⟩ := Option.isSome_iff_exists.1 ((mapIndex_isSome k).trans hi)
    exact ⟨zerosCollected, _, congrArg State.responses (ldmapEffect_of_some config zerosCollected k n hn)⟩
  | synd c =>
    obtain ⟨n, hn⟩ := Option.isSome_iff_exists.1 ((checkIndex_isSome c).trans hi)
    exact ⟨zerosCollected, _, congrArg State.responses (syndEffect_of_some config c n zerosCollected hn)⟩
  | chk => exact ⟨zerosCollected, _, congrArg State.responses (chkEffect_eq config zerosCollected)⟩
  | nop | rst | gmul | ldexp | ldlog | ldalf | mapc => exact ⟨zerosCollected, _, rfl⟩

/-- Settles O21: a well-formed command gives one of three answers, and succeeds in a collected or a finished unit. -/
theorem statusCodesAndTheirProducers : Obligations.StatusCodesAndTheirProducers := by
  refine ⟨⟨rfl, rfl, rfl, rfl, rfl, rfl, fun st => ?_⟩, fun i hi => ?_, fun w e => illWord_of_decode_eq_error,
    fun i s hi => ?_⟩
  · cases st <;> decide
  · obtain ⟨s, d, hd⟩ := exists_ok_answer i hi
    exact ⟨s, d, _, exec_eq_effectWith i s, hd⟩
  · obtain ⟨r, hr, hanswer⟩ := effectWith_answers config s i hi
    refine ⟨r, _, exec_eq_effectWith i s, hr, ?_⟩
    cases hanswer with
    | ok d => simp
    | eState h => exact ⟨fun _ => rfl, by decide, by simp, fun _ => h⟩
    | raised e hfin herr =>
      exact ⟨fun _ => rfl, by cases e <;> decide, fun _ => ⟨hfin, herr ▸ e.status_code⟩, fun _ => .inl hfin⟩

end Sys2Proof.Machine
end

section
/-! The lookups of the mapper and the table loads (40_mapper.md R71 to R75, 41_field.md R85, R86). -/

namespace Sys2Proof.Machine

/-! ## Decoding the number of a command -/

theorem decode_ofNat_wordNumber (i : Instr) (hi : i.wf = true) : decode (BitVec.ofNat 16 (wordNumber i)) = .ok i := by
  refine decode_of_wordNumber hi ?_
  rw [← encode_toNat, BitVec.toNat_ofNat, Nat.mod_eq_of_lt (encode i).isLt]

/-! ## The data of a lookup -/

/-- Bit 5 of the data is the hit (40_mapper.md R73). -/
theorem hitData_getLsbD_five (found : Option Symbol) : (hitData found).getLsbD 5 = found.isSome := by
  cases found with
  | none => rfl
  | some v =>
    have hbit : (1#1 ++ v).getLsbD 5 = true := by rw [BitVec.getLsbD_append]; rfl
    simpa [hitData, zext64, BitVec.getLsbD_setWidth] using hbit

/-- The five bits below it are the symbol. -/
theorem setWidth_hitData_some (v : Symbol) : (hitData (some v)).setWidth 5 = v := by
  rw [hitData, zext64, BitVec.setWidth_setWidth_of_le _ (by decide), BitVec.setWidth_append]
  simp

theorem zext64_eq_ofNat {n : Nat} (v : BitVec n) : zext64 v = BitVec.ofNat 64 v.toNat :=
  (BitVec.ofNat_toNat 64 v).symm

/-! ## The default alphabet -/

/-- The default alphabet is four runs of consecutive codes: the digits from '2', the letters from 'A' without I and O
(10_state.md R27). -/
theorem config_alphaAt_toNat (i : Symbol) : (config.alphaAt i).toNat =
    if i.toNat < 8 then 0x32 + i.toNat
    else if i.toNat < 16 then 0x41 + (i.toNat - 8)
    else if i.toNat < 21 then 0x4A + (i.toNat - 16)
    else 0x50 + (i.toNat - 21) := by revert i; decide

theorem exists_config_alphaAt_eq_iff (c : CharCode) : (∃ i, config.alphaAt i = c) ↔
    (0x32 ≤ c.toNat ∧ c.toNat ≤ 0x39) ∨ (0x41 ≤ c.toNat ∧ c.toNat ≤ 0x48) ∨
    (0x4A ≤ c.toNat ∧ c.toNat ≤ 0x4E) ∨ (0x50 ≤ c.toNat ∧ c.toNat ≤ 0x5A) := by
  constructor
  · rintro ⟨i, rfl⟩
    have hi := i.isLt
    rw [config_alphaAt_toNat]
    split_ifs <;> omega
  · have hrun (k : Nat) (hk : k < 32) (hc : c.toNat = if k < 8 then 0x32 + k else if k < 16 then 0x41 + (k - 8)
        else if k < 21 then 0x4A + (k - 16) else 0x50 + (k - 21)) : ∃ i, config.alphaAt i = c :=
      ⟨BitVec.ofNat 5 k, BitVec.eq_of_toNat_eq (by
        rw [config_alphaAt_toNat, BitVec.toNat_ofNat, Nat.mod_eq_of_lt hk, hc])⟩
    rintro (⟨hge, hle⟩ | ⟨hge, hle⟩ | ⟨hge, hle⟩ | ⟨hge, hle⟩)
    · exact hrun (c.toNat - 0x32) (by omega) (by split_ifs <;> omega)
    · exact hrun (c.toNat - 0x41 + 8) (by omega) (by split_ifs <;> omega)
    · exact hrun (c.toNat - 0x4A + 16) (by omega) (by split_ifs <;> omega)
    · exact hrun (c.toNat - 0x50 + 21) (by omega) (by split_ifs <;> omega)

theorem mapLookup_isSome_iff (T : Config) (hw : T.CharwFits) (c : CharCode) :
    (mapLookup T c).isSome = true ↔ ∃ i, T.alphaAt i = c := by
  rw [Option.isSome_iff_ne_none, Ne, mapLookup_eq_none_iff T hw]
  simp only [ne_eq, not_forall, not_not]

theorem mapLookup_config_alphaAt (i : Symbol) : mapLookup config (config.alphaAt i) = some i :=
  mapLookup_alphaAt config config_charwFits config_alphaDistinct i

/-! ## MAPC -/

theorem exec_mapc (c : CharCode) (s : State) :
    exec (.mapc c) s = .next (answered .ok (hitData (mapLookup config c)) s) := rfl

/-- Settles O22: a hit is an entry that holds the code, and the entries are four runs of codes. -/
theorem mapcHitsExactlyTheAlphabet : Obligations.MapcHitsExactlyTheAlphabet := by
  intro s c
  refine ⟨_, exec_mapc c s, fun hhit => ?_, ?_⟩
  · rw [hitData_getLsbD_five] at hhit
    obtain ⟨v, hv⟩ := Option.isSome_iff_exists.1 hhit
    rw [hv, setWidth_hitData_some, alphaAt_of_mapLookup config c v hv]
  · rw [hitData_getLsbD_five, mapLookup_isSome_iff config config_charwFits, exists_config_alphaAt_eq_iff]

theorem exec_mapc_alphaAt (i : Symbol) (s : State) :
    exec (.mapc (config.alphaAt i)) s = .next (answered .ok (BitVec.ofNat 64 (0x20 + i.toNat)) s) := by
  rw [exec_mapc, mapLookup_config_alphaAt, hitData_some]

theorem exec_mapc_of_forall_ne (c : CharCode) (hc : ∀ i, config.alphaAt i ≠ c) (s : State) :
    exec (.mapc c) s = .next (answered .ok 0 s) := by
  rw [exec_mapc, (mapLookup_eq_none_iff config config_charwFits c).2 hc, hitData_none]

/-- Settles O23: MAPC answers the lookup, which finds the entry's own index, or nothing; three of the examples are
entries, the other three are not. -/
theorem mapcCommand : Obligations.MapcCommand := by
  refine ⟨fun s i => exec_mapc_alphaAt i s, fun s c hc => exec_mapc_of_forall_ne c hc s,
    fun c => decode_ofNat_wordNumber (.mapc c) rfl,
    fun w hop => illWord_of_reserved_ne_zero (decode_of_opcode_mapc (congrArg BitVec.toNat hop)), fun e he s => ?_⟩
  simp only [List.mem_cons, List.not_mem_nil, or_false] at he
  rcases he with rfl | rfl | rfl | rfl | rfl | rfl
  · exact exec_mapc_alphaAt 0 s
  · exact exec_mapc_alphaAt 31 s
  · exact exec_mapc_alphaAt 17 s
  · exact exec_mapc_of_forall_ne 0x49 (by decide) s
  · exact exec_mapc_of_forall_ne 0x61 (by decide) s
  · exact exec_mapc_of_forall_ne 0x2D (by decide) s

/-! ## The table loads -/

theorem exec_ldexp (i : Symbol) (s : State) :
    exec (.ldexp i) s = .next (answered .ok (BitVec.ofNat 64 (config.gexpAt i).toNat) s) := by
  rw [← zext64_eq_ofNat]; rfl

theorem exec_ldlog (i : Symbol) (s : State) :
    exec (.ldlog i) s = .next (answered .ok (BitVec.ofNat 64 (config.glogAt i).toNat) s) := by
  rw [← zext64_eq_ofNat]; rfl

theorem exec_ldalf (i : Symbol) (s : State) :
    exec (.ldalf i) s = .next (answered .ok (BitVec.ofNat 64 (config.alphaAt i).toNat) s) := by
  rw [← zext64_eq_ofNat]; rfl

theorem exec_ldmap (n : Fin 17) (i : Symbol) (s : State) (h : i.toNat = n.val) :
    exec (.ldmap i) s = .next (answered .ok (BitVec.ofNat 64 (config.cwmapAt n).val) s) := by
  have hslot : (BitVec.ofNat 5 (config.cwmapAt n).val).toNat = (config.cwmapAt n).val := by
    rw [BitVec.toNat_ofNat, Nat.mod_eq_of_lt (by omega)]
  rw [exec_eq_effectWith, effectWith, ldmapEffect_of_some config s i n ((mapIndex_eq_some_iff i n).2 h), zext64_eq_ofNat,
    hslot]
  rfl

/-- Settles O24: each load answers its entry, and the entries are compared with the printed tables. -/
theorem tableLoadCommands : Obligations.TableLoadCommands := by
  refine ⟨fun s i => ⟨_, ?gexp, exec_ldexp i s⟩, fun s i => ⟨_, ?glog, exec_ldlog i s⟩,
    fun s i => ⟨_, ?alpha, exec_ldalf i s, mapLookup_config_alphaAt i⟩,
    fun s i hi => ⟨_, ?cwmap, exec_ldmap ⟨i.toNat, by omega⟩ i s rfl⟩,
    fun i => ⟨decode_ofNat_wordNumber (.ldexp i) rfl, decode_ofNat_wordNumber (.ldlog i) rfl,
      decode_ofNat_wordNumber (.ldalf i) rfl⟩,
    fun i => ⟨fun hi => decode_ofNat_wordNumber (.ldmap i) ((legalMapIndex_iff i).2 hi), fun hi => ?reserved⟩⟩
  case gexp => revert i; decide
  case glog => revert i; decide
  case alpha => revert i; decide
  case cwmap => revert i; decide
  case reserved =>
    refine illWord_of_not_legalNumber ?_
    have := i.isLt
    rw [BitVec.toNat_ofNat]
    unfold LegalNumber
    omega

end Sys2Proof.Machine
end

section
/-! The statements about PUSH (40_mapper.md R76 to R78): a valid character's symbol is stored below 17 and counted below
18. -/

namespace Sys2Proof.Machine

section Counted
variable (T : Config) (v : Symbol) (s : State)

theorem storeSymbol_of_lt (h : s.cnt.toNat < 17) :
    storeSymbol T v s = { s with cw := s.cw.set (T.cwmapAt ⟨s.cnt.toNat, h⟩) v } := dif_pos h

theorem countValid_of_lt (h : s.cnt.toNat < 18) : countValid s = { s with cnt := s.cnt + 1 } := if_pos h

/-- One of the first seventeen valid characters. -/
theorem countValid_storeSymbol_of_lt (n : Fin 17) (h : s.cnt.toNat = n.val) : countValid (storeSymbol T v s) =
    { s with cw := s.cw.set (T.cwmapAt n) v, cnt := BitVec.ofNat 5 (n.val + 1) } := by
  have hlt : s.cnt.toNat < 17 := h ▸ n.isLt
  obtain rfl : ⟨s.cnt.toNat, hlt⟩ = n := Fin.ext h
  have hcnt : s.cnt + 1 = BitVec.ofNat 5 (s.cnt.toNat + 1) := by
    rw [BitVec.ofNat_add, BitVec.ofNat_toNat, BitVec.setWidth_eq]
    rfl
  rw [countValid_of_lt _ (by rw [storeSymbol_cnt]; omega), storeSymbol_cnt, storeSymbol_of_lt T v s hlt, hcnt]

/-- The eighteenth valid character. -/
theorem countValid_storeSymbol_of_eq_17 (h : s.cnt.toNat = 17) :
    countValid (storeSymbol T v s) = { s with cnt := 18 } := by
  have hcnt : s.cnt = 17 := BitVec.eq_of_toNat_eq h
  rw [storeSymbol_of_ge T v s h.ge, countValid_of_lt s (by omega), hcnt]
  rfl

/-- A valid character after the eighteenth. -/
theorem countValid_storeSymbol_of_ge (h : 18 ≤ s.cnt.toNat) : countValid (storeSymbol T v s) = s := by
  rw [storeSymbol_of_ge T v s (by omega), countValid_of_ge s h]

end Counted

/-- PUSH of a valid character in COLLECT. -/
theorem exec_push_alphaAt (v : Symbol) (s : State) (hph : s.ph = .collect) : exec (.push (config.alphaAt v)) s =
    .next (answered .ok (BitVec.ofNat 64 (0x20 + v.toNat)) (countValid (storeSymbol config v s))) := by
  rw [exec_eq_effectWith, effectWith]
  rcases pushEffect_cases config (config.alphaAt v) s with ⟨hne, _⟩ | ⟨_, hmiss, _⟩ | ⟨_, u, hhit, he⟩
  · exact absurd hph hne
  · rw [mapLookup_config_alphaAt] at hmiss
    cases hmiss
  · rw [mapLookup_config_alphaAt] at hhit
    cases hhit
    rw [he, hitData_some]
    rfl

/-- PUSH of any other character in COLLECT. -/
theorem exec_push_of_forall_ne (c : CharCode) (s : State) (hph : s.ph = .collect) (hc : ∀ i, config.alphaAt i ≠ c) :
    exec (.push c) s = .next (answered .ok 0 s) := by
  rw [exec_eq_effectWith, effectWith]
  rcases pushEffect_cases config c s with ⟨hne, _⟩ | ⟨_, _, he⟩ | ⟨_, v, hhit, _⟩
  · exact absurd hph hne
  · rw [he]
    rfl
  · exact absurd (alphaAt_of_mapLookup config c v hhit) (hc v)

theorem exec_push_of_ne_collect (c : CharCode) (s : State) (hph : s.ph ≠ .collect) :
    exec (.push c) s = .next (answered .eState 0 s) := by
  rw [exec_eq_effectWith, effectWith, pushEffect_of_ne_collect config c s hph]
  rfl

theorem exec_push_of_lt (n : Fin 17) (v : Symbol) (s : State) (hph : s.ph = .collect) (hcnt : s.cnt.toNat = n.val) :
    exec (.push (config.alphaAt v)) s = .next (answered .ok (BitVec.ofNat 64 (0x20 + v.toNat))
      { s with cw := s.cw.set (config.cwmapAt n) v, cnt := BitVec.ofNat 5 (n.val + 1) }) := by
  rw [exec_push_alphaAt v s hph, countValid_storeSymbol_of_lt config v s n hcnt]

theorem exec_push_of_eq_17 (v : Symbol) (s : State) (hph : s.ph = .collect) (hcnt : s.cnt.toNat = 17) :
    exec (.push (config.alphaAt v)) s =
      .next (answered .ok (BitVec.ofNat 64 (0x20 + v.toNat)) { s with cnt := 18 }) := by
  rw [exec_push_alphaAt v s hph, countValid_storeSymbol_of_eq_17 config v s hcnt]

theorem exec_push_of_ge_18 (v : Symbol) (s : State) (hph : s.ph = .collect) (hcnt : 18 ≤ s.cnt.toNat) :
    exec (.push (config.alphaAt v)) s = .next (answered .ok (BitVec.ofNat 64 (0x20 + v.toNat)) s) := by
  rw [exec_push_alphaAt v s hph, countValid_storeSymbol_of_ge config v s hcnt]

/-- Settles O25: a valid character by the count; 'K' of the worked example is the first character, symbol 17. -/
theorem pushCommand : Obligations.PushCommand :=
  ⟨fun s n v => exec_push_of_lt n v s, fun s v => exec_push_of_eq_17 v s, fun s v => exec_push_of_ge_18 v s,
    fun s c => exec_push_of_forall_ne c s, fun s c => exec_push_of_ne_collect c s,
    fun c => decode_ofNat_wordNumber (.push c) rfl,
    fun _ hop => illWord_of_reserved_ne_zero (decode_of_opcode_push (congrArg BitVec.toNat hop)),
    exec_push_of_lt 0 17 State.reset rfl rfl⟩

/-- A surplus character, the eighteenth or a later one, leaves the count at 18. -/
theorem exec_push_surplus (v : Symbol) (s : State) (hph : s.ph = .collect) (hcnt : s.cnt = 17 ∨ s.cnt = 18) :
    exec (.push (config.alphaAt v)) s =
      .next (answered .ok (BitVec.ofNat 64 (0x20 + v.toNat)) { s with cnt := 18 }) := by
  rcases hcnt with h17 | h18
  · exact exec_push_of_eq_17 v s hph (congrArg BitVec.toNat h17)
  · rw [exec_push_of_ge_18 v s hph (congrArg BitVec.toNat h18).ge, ← h18]

theorem exec_fin_of_cnt_ne (s : State) (hph : s.ph = .collect) (hcnt : s.cnt ≠ 17) :
    exec .fin s = .next (raiseError .tooShort s) := by
  rw [exec_eq_effectWith, effectWith]
  rcases finEffect_cases config s with ⟨hne, _⟩ | ⟨_, _, he⟩ | ⟨_, h17, _⟩ | ⟨_, h17, _⟩ | ⟨_, h17, _⟩
  · exact absurd hph hne
  · rw [he]
  all_goals exact absurd h17 hcnt

/-- Settles O26: the push leaves the count at 18, which FIN's length check refuses. -/
theorem surplusCharactersFailTheLengthCheck : Obligations.SurplusCharactersFailTheLengthCheck := by
  intro s v hph hcnt
  have hne : (18 : BitVec 5) ≠ 17 := by decide
  have hfin := exec_fin_of_cnt_ne (answered .ok (BitVec.ofNat 64 (0x20 + v.toNat)) { s with cnt := 18 }) hph hne
  exact ⟨_, _, exec_push_surplus v s hph hcnt, rfl, rfl, hph, rfl, hfin, rfl, rfl, rfl, rfl, rfl⟩

end Sys2Proof.Machine
end

section
/-! The run of a word sequence that the host presents: the words that wait play no part in the words before them
(43_orchestrator.md R118, R121). -/

namespace Sys2Proof.Machine

/-- The unit with other inputs pending. -/
def withInputs (xs : List HostInput) (s : State) : State := { s with inputs := xs }

section PendingInputs
variable (T : Config) (xs : List HostInput) (s : State)

theorem respond_withInputs (st : Status) (d : Data) :
    respond st d (withInputs xs s) = withInputs xs (respond st d s) := rfl

theorem storeSymbol_withInputs (v : Symbol) :
    storeSymbol T v (withInputs xs s) = withInputs xs (storeSymbol T v s) := by
  simp only [storeSymbol, apply_dite (withInputs xs)]; rfl

theorem countValid_withInputs : countValid (withInputs xs s) = withInputs xs (countValid s) := by
  simp only [countValid, apply_ite (withInputs xs)]; rfl

theorem pushEffect_withInputs (c : CharCode) : pushEffect T c (withInputs xs s) = withInputs xs (pushEffect T c s) := by
  simp only [pushEffect, apply_ite (withInputs xs)]
  cases mapLookup T c with
  | none => rfl
  | some v => simp only [storeSymbol_withInputs, countValid_withInputs, respond_withInputs]; rfl

theorem finEffect_withInputs : finEffect T (withInputs xs s) = withInputs xs (finEffect T s) := by
  simp only [finEffect, apply_ite (withInputs xs)]; rfl

theorem rdEffect_withInputs (r : BitVec 6) : rdEffect r (withInputs xs s) = withInputs xs (rdEffect r s) := by
  have hread (x : Reg) : readReg x (withInputs xs s) = readReg x s := by cases x <;> rfl
  unfold rdEffect
  cases regOf r with
  | none => rfl
  | some x => simp only [hread]; cases readReg x s <;> rfl

theorem ldmapEffect_withInputs (k : Symbol) : ldmapEffect T k (withInputs xs s) = withInputs xs (ldmapEffect T k s) := by
  unfold ldmapEffect
  cases mapIndex k <;> rfl

theorem chkEffect_withInputs : chkEffect T (withInputs xs s) = withInputs xs (chkEffect T s) := by
  simp only [chkEffect, apply_ite (withInputs xs)]; rfl

theorem syndEffect_withInputs (c : BitVec 3) : syndEffect T c (withInputs xs s) = withInputs xs (syndEffect T c s) := by
  unfold syndEffect
  cases checkIndex c with
  | none => rfl
  | some i => simp only [apply_ite (withInputs xs)]; rfl

theorem effectWith_withInputs (i : Instr) : effectWith T i (withInputs xs s) = withInputs xs (effectWith T i s) := by
  cases i with
  | push c => exact pushEffect_withInputs T xs s c
  | fin => exact finEffect_withInputs T xs s
  | rd r => exact rdEffect_withInputs xs s r
  | ldmap k => exact ldmapEffect_withInputs T xs s k
  | synd c => exact syndEffect_withInputs T xs s c
  | chk => exact chkEffect_withInputs T xs s
  | nop | rst | gmul | ldexp | ldlog | ldalf | mapc => rfl

theorem wordEffectWith_withInputs (w : Word) :
    wordEffectWith T w (withInputs xs s) = withInputs xs (wordEffectWith T w s) := by
  unfold wordEffectWith
  cases decode w with
  | ok i => exact effectWith_withInputs T xs s i
  | error _ => rfl

theorem wordEffectWith_inputs (w : Word) : (wordEffectWith T w s).inputs = s.inputs := (wordEffectWith_answers T s w).1

theorem afterWords_inputs (ws : List Word) : (afterWords T ws s).inputs = s.inputs := by
  induction ws generalizing s with
  | nil => rfl
  | cons w ws ih => exact (ih (wordEffectWith T w s)).trans (wordEffectWith_inputs T s w)

/-- A word leaves the words behind it waiting. -/
theorem wordEffectWith_present (w : Word) (ws : List Word) :
    wordEffectWith T w (present ws s) = present ws (wordEffectWith T w s) := by
  calc wordEffectWith T w (present ws s)
      = withInputs (ws.map HostInput.command ++ s.inputs) (wordEffectWith T w s) := wordEffectWith_withInputs ..
    _ = present ws (wordEffectWith T w s) := by rw [← wordEffectWith_inputs T s w]; rfl

end PendingInputs

/-- As many steps as there are words run the words in order, each accepted by one step. -/
theorem run_present (ws : List Word) (s : State) :
    Host.Core.run Sys2Proof.core ws.length (present ws s) = .next (afterWords config ws s) := by
  induction ws generalizing s with
  | nil => rfl
  | cons w ws ih =>
    have hstep : stepWith config (present (w :: ws) s) = present ws (wordEffectWith config w s) :=
      (stepWith_of_cons config _ (.command w) _ rfl).trans (wordEffectWith_present config s w ws)
    rw [List.length_cons, run_succ, hstep, ih]
    rfl

end Sys2Proof.Machine
end

section
/-! The text collected so far: what PUSH of a text leaves in the count and the slots (40_mapper.md R76 to R80). -/

namespace Sys2Proof.Machine

/-- The unit is in COLLECT and has taken the valid characters with the symbols `vs`: they are counted up to 18, and
character `n` stands in slot `CWMAP[n]`, a slot not reached being 0 (40_mapper.md R79). -/
structure Collected (T : Config) (vs : List Symbol) (s : State) : Prop where
  ph : s.ph = .collect
  cnt : s.cnt.toNat = min vs.length 18
  slot : ∀ n : Fin 17, s.cw[(T.cwmapAt n).val] = vs.getD n.val 0

section Collecting
variable {T : Config} {vs : List Symbol} {s : State}

theorem collected_clearUnit (T : Config) (s : State) : Collected T [] (clearUnit s) where
  ph := rfl
  cnt := rfl
  slot n := by simp

theorem Collected.respond (h : Collected T vs s) (st : Status) (d : Data) : Collected T vs (respond st d s) :=
  ⟨h.ph, h.cnt, h.slot⟩

theorem getD_append_singleton_of_ne {α : Type} {l : List α} {a d : α} {n : Nat} (h : n ≠ l.length) :
    (l ++ [a]).getD n d = l.getD n d := by
  rcases Nat.lt_or_gt_of_ne h with hlt | hgt
  · exact List.getD_append _ _ _ _ hlt
  · rw [List.getD_eq_default l d hgt.le, List.getD_eq_default _ d (by simpa using hgt)]

/-- The slots after one more valid character: below 17 it goes to a slot of its own, as `CWMAP` is a permutation, and
from 17 on no slot shows it. -/
theorem Collected.slot_storeSymbol (hT : T.CwmapPermutes) (h : Collected T vs s) (v : Symbol) (n : Fin 17) :
    (storeSymbol T v s).cw[(T.cwmapAt n).val] = (vs ++ [v]).getD n.val 0 := by
  have hcnt := h.cnt
  by_cases hlt : s.cnt.toNat < 17
  · rw [getElem_congr_coll (storeSymbol_cw_of_lt T v s hlt)]
    have hlen : vs.length = s.cnt.toNat := by omega
    by_cases hn : n = ⟨s.cnt.toNat, hlt⟩
    · subst hn
      simp [← hlen]
    · have hslot : (T.cwmapAt ⟨s.cnt.toNat, hlt⟩).val ≠ (T.cwmapAt n).val := fun heq => hn (hT _ _ (Fin.ext heq)).symm
      have hne : n.val ≠ vs.length := fun heq => hn (Fin.ext (heq.trans hlen))
      rw [Vector.getElem_set_ne _ _ hslot, h.slot n, getD_append_singleton_of_ne hne]
  · rw [storeSymbol_of_ge T v s (Nat.not_lt.1 hlt), h.slot n, List.getD_append _ _ _ _ (by omega)]

theorem Collected.countValid_storeSymbol (hT : T.CwmapPermutes) (h : Collected T vs s) (v : Symbol) :
    Collected T (vs ++ [v]) (countValid (storeSymbol T v s)) where
  ph := by simpa using h.ph
  cnt := by
    have hcnt := h.cnt
    rw [countValid_toNat, storeSymbol_cnt, List.length_append, List.length_singleton]
    split <;> omega
  slot n := by simpa only [countValid_cw] using h.slot_storeSymbol hT v n

theorem Collected.pushEffect (hT : T.CwmapPermutes) (h : Collected T vs s) (c : CharCode) :
    Collected T (vs ++ (mapLookup T c).toList) (pushEffect T c s) := by
  rcases pushEffect_cases T c s with ⟨hph, _⟩ | ⟨_, hmiss, he⟩ | ⟨_, v, hhit, he⟩
  · exact absurd h.ph hph
  · rw [he, hmiss, Option.toList_none, List.append_nil]
    exact h.respond ..
  · rw [he, hhit, Option.toList_some]
    exact (h.countValid_storeSymbol hT v).respond ..

theorem wordEffectWith_encode (T : Config) (i : Instr) (hi : i.wf = true) (s : State) :
    wordEffectWith T (encode i) s = effectWith T i s := by
  rw [wordEffectWith, decodeOfEncodeIsIdentity i hi]

theorem survivors_cons (T : Config) (c : CharCode) (text : List CharCode) :
    survivors T (c :: text) = (mapLookup T c).toList ++ survivors T text := by
  unfold survivors
  cases h : mapLookup T c <;> simp [h]

/-- By induction on the text, a character at a time. -/
theorem Collected.afterWords_pushs (hT : T.CwmapPermutes) (h : Collected T vs s) (text : List CharCode) :
    Collected T (vs ++ survivors T text) (afterWords T (pushs text) s) := by
  induction text generalizing vs s with
  | nil =>
    rw [survivors, List.filterMap_nil, List.append_nil]
    exact h
  | cons c text ih =>
    have hpush : Collected T (vs ++ (mapLookup T c).toList) (wordEffectWith T (encode (.push c)) s) := by
      rw [wordEffectWith_encode T (.push c) rfl]
      exact h.pushEffect hT c
    rw [survivors_cons, ← List.append_assoc]
    exact ih hpush

/-- RST and then a text, whatever the unit held before (40_mapper.md R79). -/
theorem collected_afterWords_rst_pushs (hT : T.CwmapPermutes) (s : State) (text : List CharCode) :
    Collected T (survivors T text) (afterWords T (encode .rst :: pushs text) s) := by
  have hrst : Collected T [] (wordEffectWith T (encode .rst) s) := by
    rw [wordEffectWith_encode T .rst rfl]
    exact (collected_clearUnit T s).respond ..
  exact hrst.afterWords_pushs hT text

end Collecting

/-- Settles O27: the run executes the words, RST clears the unit, and each PUSH adds what its character survives as. -/
theorem slotsAfterPushingAnyText : Obligations.SlotsAfterPushingAnyText := by
  intro s text
  have hlen : (encode .rst :: pushs text).length = text.length + 1 := by simp [pushs]
  have hcollected := collected_afterWords_rst_pushs config_cwmapPermutes s text
  exact ⟨_, hlen ▸ run_present _ s, afterWords_inputs config s _, hcollected.ph, hcollected.cnt, hcollected.slot⟩

/-! ## A text of characters of any width -/

/-- A character that is presented as nothing is in no alphabet, and any other is presented as itself (40_mapper.md R80). -/
theorem survivors_presented (T : Config) (text : List (BitVec T.charw)) :
    survivors T ((text.filter fun c => decide (c.toNat < 256)).map (BitVec.setWidth 8)) = survivorsOfText T text := by
  unfold survivors survivorsOfText
  induction text with
  | nil => rfl
  | cons c text ih =>
    by_cases hc : c.toNat < 256
    · simp [hc, ih, List.filterMap_cons, mapLookup_setWidth T c hc]
    · simp [hc, ih, lookupCode_of_ge T c (Nat.not_lt.1 hc)]

/-- Settles O59: the characters that reach the port are those that can be in the alphabet. -/
theorem slotsAfterTextOfAnyCharacterWidth : Obligations.SlotsAfterTextOfAnyCharacterWidth := by
  intro T s text hT t
  have hcollected : Collected T (survivorsOfText T text) t := by
    rw [← survivors_presented]
    exact collected_afterWords_rst_pushs hT s _
  exact ⟨hcollected.ph, hcollected.cnt, hcollected.slot⟩

end Sys2Proof.Machine
end

section
/-! The laws of the field product (41_field.md R87): every non-zero element is a power of the generator, with one
exponent in 0..30, and the product of powers adds the exponents modulo 31. -/

namespace Sys2Proof.Machine

/-! ## Exponents -/

/-- The exponent of the product of two powers of the generator: the sum modulo 31 (41_field.md R83). -/
def expSum (m n : Symbol) : Symbol := BitVec.ofNat 5 ((m.toNat + n.toNat) % 31)

theorem expSum_toNat (m n : Symbol) : (expSum m n).toNat = (m.toNat + n.toNat) % 31 := toNat_mod_31 _

theorem expSum_ne_31 (m n : Symbol) : expSum m n ≠ 31 := by
  rw [ne_31_iff, expSum_toNat]
  exact Nat.mod_lt _ (by decide)

theorem expSum_zero {n : Symbol} (hn : n ≠ 31) : expSum n 0 = n := by
  rw [ne_31_iff] at hn
  refine BitVec.eq_of_toNat_eq ?_
  have hzero : (0 : Symbol).toNat = 0 := rfl
  rw [expSum_toNat, hzero, Nat.add_zero, Nat.mod_eq_of_lt hn]

theorem expSum_assoc (m n k : Symbol) : expSum (expSum m n) k = expSum m (expSum n k) := by
  refine BitVec.eq_of_toNat_eq ?_
  simp only [expSum_toNat, Nat.mod_add_mod, Nat.add_mod_mod, Nat.add_assoc]

theorem expSum_left_cancel {m n k : Symbol} (hn : n ≠ 31) (hk : k ≠ 31) (h : expSum m n = expSum m k) : n = k := by
  rw [ne_31_iff] at hn hk
  have hsum := congrArg BitVec.toNat h
  rw [expSum_toNat, expSum_toNat] at hsum
  exact BitVec.eq_of_toNat_eq (by omega)

/-- The product of non-zero elements adds their logarithms. -/
theorem gmult_eq_gexpAt_expSum (T : Config) {a b : Symbol} (ha : a ≠ 0) (hb : b ≠ 0) :
    gmult T a b = T.gexpAt (expSum (T.glogAt a) (T.glogAt b)) := gmult_of_ne T ha hb

theorem gmult_comm (T : Config) (a b : Symbol) : gmult T a b = gmult T b a := by
  simp only [gmult, or_comm, Nat.add_comm]

/-! ## Powers of the generator -/

section Powers
variable {T : Config} (hexp : T.GexpGenerates) (hlog : T.GlogInverts)
include hexp

theorem gexpAt_ne_zero {n : Symbol} (hn : n ≠ 31) : T.gexpAt n ≠ 0 := hexp.1 n hn

theorem gexpAt_injective {m n : Symbol} (hm : m ≠ 31) (hn : n ≠ 31) (h : T.gexpAt m = T.gexpAt n) : m = n :=
  hexp.2.1 m n hm hn h

/-- `GEXP[0..30]` are 31 distinct ones of the 31 non-zero elements, so they are all of them. -/
theorem exists_gexpAt_eq {a : Symbol} (ha : a ≠ 0) : ∃ n, n ≠ 31 ∧ T.gexpAt n = a := by
  have hinjective : Function.Injective fun n : Symbol => if n = 31 then 0 else T.gexpAt n := by
    intro m n (h : (if m = 31 then 0 else _) = if n = 31 then 0 else _)
    split_ifs at h with hm hn hn
    · exact hm.trans hn.symm
    · exact absurd h.symm (gexpAt_ne_zero hexp hn)
    · exact absurd h (gexpAt_ne_zero hexp hm)
    · exact gexpAt_injective hexp hm hn h
  obtain ⟨n, hn : (if n = 31 then 0 else _) = a⟩ := Finite.surjective_of_injective hinjective a
  split_ifs at hn with h31
  · exact absurd hn.symm ha
  · exact ⟨n, h31, hn⟩

/-- The case split of the laws below. -/
theorem eq_zero_or_exists_gexpAt_eq (a : Symbol) : a = 0 ∨ ∃ n, n ≠ 31 ∧ T.gexpAt n = a :=
  or_iff_not_imp_left.2 (exists_gexpAt_eq hexp)

/-- No zero divisors (41_field.md R87). -/
theorem gmult_ne_zero {a b : Symbol} (ha : a ≠ 0) (hb : b ≠ 0) : gmult T a b ≠ 0 := by
  rw [gmult_eq_gexpAt_expSum T ha hb]
  exact gexpAt_ne_zero hexp (expSum_ne_31 _ _)

include hlog

/-- Powers (41_field.md R87). -/
theorem gmult_gexpAt {m n : Symbol} (hm : m ≠ 31) (hn : n ≠ 31) :
    gmult T (T.gexpAt m) (T.gexpAt n) = T.gexpAt (expSum m n) := by
  rw [gmult_eq_gexpAt_expSum T (gexpAt_ne_zero hexp hm) (gexpAt_ne_zero hexp hn), hlog m hm, hlog n hn]

/-- One (41_field.md R87). -/
theorem gmult_gexpAt_zero (a : Symbol) : gmult T a (T.gexpAt 0) = a := by
  rcases eq_zero_or_exists_gexpAt_eq hexp a with rfl | ⟨n, hn, rfl⟩
  · exact gmult_zero_left T _
  · rw [gmult_gexpAt hexp hlog hn (by decide), expSum_zero hn]

/-- Cancellation (41_field.md R87). -/
theorem gmult_left_cancel {a b c : Symbol} (ha : a ≠ 0) (h : gmult T a b = gmult T a c) : b = c := by
  obtain ⟨m, hm, rfl⟩ := exists_gexpAt_eq hexp ha
  rcases eq_zero_or_exists_gexpAt_eq hexp b with rfl | ⟨n, hn, rfl⟩
  · by_contra hc
    exact gmult_ne_zero hexp ha (Ne.symm hc) (h.symm.trans (gmult_zero_right T _))
  rcases eq_zero_or_exists_gexpAt_eq hexp c with rfl | ⟨k, hk, rfl⟩
  · exact absurd (h.trans (gmult_zero_right T _)) (gmult_ne_zero hexp ha (gexpAt_ne_zero hexp hn))
  rw [gmult_gexpAt hexp hlog hm hn, gmult_gexpAt hexp hlog hm hk] at h
  have hsum := gexpAt_injective hexp (expSum_ne_31 m n) (expSum_ne_31 m k) h
  rw [expSum_left_cancel hn hk hsum]

/-- Associativity (41_field.md R87): the exponents add associatively. -/
theorem gmult_assoc (a b c : Symbol) : gmult T (gmult T a b) c = gmult T a (gmult T b c) := by
  rcases eq_zero_or_exists_gexpAt_eq hexp a with rfl | ⟨m, hm, rfl⟩
  · simp only [gmult_zero_left]
  rcases eq_zero_or_exists_gexpAt_eq hexp b with rfl | ⟨n, hn, rfl⟩
  · simp only [gmult_zero_left, gmult_zero_right]
  rcases eq_zero_or_exists_gexpAt_eq hexp c with rfl | ⟨k, hk, rfl⟩
  · simp only [gmult_zero_right]
  rw [gmult_gexpAt hexp hlog hm hn, gmult_gexpAt hexp hlog hn hk, gmult_gexpAt hexp hlog (expSum_ne_31 m n) hk,
    gmult_gexpAt hexp hlog hm (expSum_ne_31 n k), expSum_assoc]

/-- The next power is the generator times the power before it. -/
theorem gexpAt_succ (n : Nat) (hn : n + 1 < 31) :
    T.gexpAt (BitVec.ofNat 5 (n + 1)) = gmult T (T.gexpAt 1) (T.gexpAt (BitVec.ofNat 5 n)) := by
  have hlow : (BitVec.ofNat 5 n).toNat = n := by rw [BitVec.toNat_ofNat]; omega
  have hsum : BitVec.ofNat 5 (n + 1) = expSum 1 (BitVec.ofNat 5 n) := by
    have hone : (1 : Symbol).toNat = 1 := rfl
    rw [expSum, hlow, hone, Nat.add_comm 1 n, Nat.mod_eq_of_lt hn]
  rw [gmult_gexpAt hexp hlog (by decide) ((ne_31_iff _).2 (by omega)), hsum]

/-- Multiplication by a power of the generator is additive, as the multiplications by the generator that it is made of
are. -/
theorem gmult_gexpAt_xor (hadd : FieldAdditive T) (n : Nat) (hn : n < 31) (b c : Symbol) :
    gmult T (T.gexpAt (BitVec.ofNat 5 n)) (b ^^^ c) =
      gmult T (T.gexpAt (BitVec.ofNat 5 n)) b ^^^ gmult T (T.gexpAt (BitVec.ofNat 5 n)) c := by
  induction n with
  | zero =>
    have hone (x : Symbol) : gmult T (T.gexpAt (BitVec.ofNat 5 0)) x = x := by
      rw [gmult_comm]
      exact gmult_gexpAt_zero hexp hlog x
    rw [hone, hone, hone]
  | succ n ih =>
    rw [gexpAt_succ hexp hlog n hn]
    simp only [gmult_assoc hexp hlog, ih (by omega), hadd _ _]

/-- Distributivity (41_field.md R87). -/
theorem gmult_xor_right (hadd : FieldAdditive T) (a b c : Symbol) :
    gmult T a (b ^^^ c) = gmult T a b ^^^ gmult T a c := by
  rcases eq_zero_or_exists_gexpAt_eq hexp a with rfl | ⟨n, hn, rfl⟩
  · simp only [gmult_zero_left]
    exact (BitVec.xor_self (x := 0)).symm
  · simpa only [BitVec.ofNat_toNat, BitVec.setWidth_eq] using
      gmult_gexpAt_xor hexp hlog hadd n.toNat ((ne_31_iff n).1 hn) b c

end Powers

/-- Settles O30: each law is one about exponents, where no operand is 0. -/
theorem fieldProductLaws : Obligations.FieldProductLaws := by
  rintro T ⟨-, hexp, hlog, -⟩ a b c
  refine ⟨gmult_zero_right T a, gmult_zero_left T a, gmult_comm T a b, gmult_gexpAt_zero hexp hlog a,
    gmult_ne_zero hexp, gmult_left_cancel hexp hlog, fun m n k hm hn hk => ?powers, gmult_assoc hexp hlog a b c⟩
  case powers =>
    rw [gmult_gexpAt hexp hlog hm hn, ← BitVec.eq_of_toNat_eq (hk.trans (expSum_toNat m n).symm)]

/-- Settles O31, by induction on the exponent of the common factor. -/
theorem fieldProductDistributes : Obligations.FieldProductDistributes := by
  rintro T ⟨-, hexp, hlog, -⟩ hadd a b c
  exact gmult_xor_right hexp hlog hadd a b c

end Sys2Proof.Machine
end

section
/-! The command GMUL (41_field.md R84) and the polynomial product it answers (R90). -/

namespace Sys2Proof.Machine

/-! ## GMUL -/

theorem exec_gmul (a b : Symbol) (s : State) :
    exec (.gmul a b) s = .next (answered .ok (zext64 (gmult config a b)) s) := rfl

theorem exec_gmul_of_eq_zero (a b : Symbol) (s : State) (h : a = 0 ∨ b = 0) :
    exec (.gmul a b) s = .next (answered .ok 0 s) := by
  have hzero : gmult config a b = 0 := if_pos h
  rw [exec_gmul, hzero]
  rfl

theorem exec_gmul_of_ne (a b : Symbol) (s : State) (ha : a ≠ 0) (hb : b ≠ 0) : exec (.gmul a b) s =
    .next (answered .ok (BitVec.ofNat 64 (config.gexpAt (expSum (config.glogAt a) (config.glogAt b))).toNat) s) := by
  rw [exec_gmul, gmult_eq_gexpAt_expSum config ha hb, zext64_eq_ofNat]

/-- Settles O28: the two clauses are the two branches of the product; the examples are products of the default tables. -/
theorem gmulCommand : Obligations.GmulCommand := by
  refine ⟨fun s a b h => exec_gmul_of_eq_zero a b s h,
    fun s a b ha hb => ⟨_, expSum_toNat _ _, exec_gmul_of_ne a b s ha hb⟩,
    fun a b => decode_ofNat_wordNumber (.gmul a b) rfl,
    fun w hop => illWord_of_reserved_ne_zero (decode_of_opcode_gmul (congrArg BitVec.toNat hop)), fun e he s => ?_⟩
  simp only [List.mem_cons, List.not_mem_nil, or_false] at he
  rcases he with rfl | rfl | rfl | rfl | rfl | rfl
  · exact exec_gmul_of_eq_zero 0 5 s (.inl rfl)
  · exact exec_gmul_of_ne 1 1 s (by decide) (by decide)
  · exact exec_gmul_of_ne 2 16 s (by decide) (by decide)
  · exact exec_gmul_of_ne 18 2 s (by decide) (by decide)
  · exact exec_gmul_of_ne 31 31 s (by decide) (by decide)
  · exact exec_gmul_of_ne 7 19 s (by decide) (by decide)

/-! ## The polynomial product -/

/-- A term that the sum of two bits selects is the sum of what the bits select. -/
theorem ite_xor_eq (p q : Bool) (x : BitVec 10) :
    (if (p ^^ q) = true then x else 0) = (if p = true then x else 0) ^^^ (if q = true then x else 0) := by
  cases p <;> cases q <;> simp

/-- Reduction modulo x^5 + x^2 + 1 is additive: the bit that decides whether to add a multiple of it is. -/
theorem reduceFrom_xor (n : Nat) (p q : BitVec 10) : reduceFrom n (p ^^^ q) = reduceFrom n p ^^^ reduceFrom n q := by
  induction n generalizing p q with
  | zero => rfl
  | succ n ih =>
    have hselect (c : Bool) (p x : BitVec 10) :
        (if c = true then p ^^^ x else p) = p ^^^ (if c = true then x else 0) := by cases c <;> simp
    simp only [reduceFrom, hselect, BitVec.getLsbD_xor, ite_xor_eq, ← ih]
    congr 1
    ac_rfl

/-- The polynomial product is additive in its second operand, whose bits select its terms. -/
theorem polyProduct_xor_right (a b c : Symbol) : polyProduct a (b ^^^ c) = polyProduct a b ^^^ polyProduct a c := by
  simp only [polyProduct, BitVec.getLsbD_xor, ite_xor_eq, reduceFrom_xor, BitVec.setWidth_xor]
  ac_rfl

/-- What one bit of an element contributes: nothing, or a power of x of degree at most 4. -/
def monomials : List Symbol := [0, 1, 2, 4, 8, 16]

/-- Additive functions that agree on the monomials agree: every element is the sum of its five bits. -/
theorem eq_of_xor_additive {f g : Symbol → Symbol} (hf : ∀ b c, f (b ^^^ c) = f b ^^^ f c)
    (hg : ∀ b c, g (b ^^^ c) = g b ^^^ g c) (hfg : ∀ d ∈ monomials, f d = g d) (b : Symbol) : f b = g b := by
  have hsum : ∀ b : Symbol, b = b &&& 1 ^^^ b &&& 2 ^^^ b &&& 4 ^^^ b &&& 8 ^^^ b &&& 16 := by decide
  have hbit : ∀ b : Symbol, ∀ d ∈ monomials, b &&& d ∈ monomials := by decide
  have hagree (d : Symbol) (hd : d ∈ monomials) : f (b &&& d) = g (b &&& d) := hfg _ (hbit b d hd)
  rw [hsum b]
  simp only [hf, hg, hagree 1 (by decide), hagree 2 (by decide), hagree 4 (by decide), hagree 8 (by decide),
    hagree 16 (by decide)]

/-- The default tables multiply by a monomial as polynomials do. -/
theorem gmult_config_eq_polyProduct_of_mem :
    ∀ d ∈ monomials, ∀ a : Symbol, gmult config a d = polyProduct a d := by decide

/-- R90: both products are additive in the second operand, and they agree on the monomials. -/
theorem gmult_config_eq_polyProduct (a b : Symbol) : gmult config a b = polyProduct a b :=
  eq_of_xor_additive (gmult_xor_right config_gexpGenerates config_glogInverts config_fieldAdditive a)
    (polyProduct_xor_right a) (fun d hd => gmult_config_eq_polyProduct_of_mem d hd a) b

/-- Settles O29: GMUL answers the product of the default tables, which is the polynomial product. -/
theorem gmulIsPolynomialProduct : Obligations.GmulIsPolynomialProduct := by
  intro s a b
  rw [exec_gmul, gmult_config_eq_polyProduct, zext64]

end Sys2Proof.Machine
end

section
/-! The two table entries that no arithmetic rule reads (41_field.md R89). -/

namespace Sys2Proof.Machine

section AgreeingTables
variable {T U : Config} (h : AgreeOnRead T U)
include h

/-- Tables that agree differ at most in the two arithmetic tables, of which the mapper and its loads read nothing. -/
theorem AgreeOnRead.exists_eq : ∃ gexp glog, U = { T with gexp := gexp, glog := glog } := by
  obtain ⟨hcharw, halpha, hcwmap, -, -⟩ := h
  cases T
  cases U
  subst hcharw halpha hcwmap
  exact ⟨_, _, rfl⟩

theorem AgreeOnRead.gexpAt_eq {n : Symbol} (hn : n ≠ 31) : T.gexpAt n = U.gexpAt n := by
  obtain ⟨-, -, -, hexp, -⟩ := h
  exact hexp n hn

theorem AgreeOnRead.glogAt_eq {a : Symbol} (ha : a ≠ 0) : T.glogAt a = U.glogAt a := by
  obtain ⟨-, -, -, -, hlog⟩ := h
  exact hlog a ha

/-- Every index of `GEXP` that the arithmetic forms is reduced modulo 31. -/
theorem AgreeOnRead.gexpAt_mod_eq (n : Nat) : T.gexpAt (BitVec.ofNat 5 (n % 31)) = U.gexpAt (BitVec.ofNat 5 (n % 31)) :=
  h.gexpAt_eq ((ne_31_iff _).2 (by rw [toNat_mod_31]; omega))

/-- The product takes the logarithm of non-zero operands only. -/
theorem AgreeOnRead.gmult_eq (a b : Symbol) : gmult T a b = gmult U a b := by
  by_cases ha : a = 0
  · rw [ha, gmult_zero_left, gmult_zero_left]
  by_cases hb : b = 0
  · rw [hb, gmult_zero_right, gmult_zero_right]
  rw [gmult_of_ne T ha hb, gmult_of_ne U ha hb, h.glogAt_eq ha, h.glogAt_eq hb, h.gexpAt_mod_eq]

theorem AgreeOnRead.syndrome_eq (i : Nat) (cw : Vector Symbol 17) : syndrome T i cw = syndrome U i cw := by
  simp only [syndrome, coeff, h.gexpAt_mod_eq, h.gmult_eq]

theorem AgreeOnRead.valid_eq (cw : Vector Symbol 17) : valid T cw = valid U cw := by
  simp only [valid, h.syndrome_eq]

end AgreeingTables

/-- Settles O32: the arithmetic commands read the tables through the product and the syndromes, the loads read one entry,
and no other command reads either table. -/
theorem placeholderEntriesReadOnlyByTheirLoads : Obligations.PlaceholderEntriesReadOnlyByTheirLoads := by
  intro T U i s h hexp hlog
  cases i with
  | gmul a b => simp only [effectWith, gmulEffect, h.gmult_eq]
  | ldexp k => simp only [effectWith, ldexpEffect, h.gexpAt_eq fun hk => hexp (congrArg _ hk)]
  | ldlog k => simp only [effectWith, ldlogEffect, h.glogAt_eq fun hk => hlog (congrArg _ hk)]
  | synd c => simp only [effectWith, syndEffect, h.syndrome_eq]
  | chk => simp only [effectWith, chkEffect, h.valid_eq]
  | fin => simp only [effectWith, finEffect, h.valid_eq]
  | push | mapc | ldalf | ldmap =>
    obtain ⟨gexp, glog, rfl⟩ := h.exists_eq
    rfl
  | nop | rst | rd => rfl

end Sys2Proof.Machine
end

section
/-! The syndrome as a sum over the slots (42_validator.md R93): the laws of a xor over a list, and from them the
source's form (R94), linearity (R100), the zero codeword (R104) and the single changed symbol (R101). -/

namespace Sys2Proof.Machine

/-! ## The xor over a list -/

/-- The xor of `f` over a list, the running sum of R93. -/
def xorSum {α : Type} (l : List α) (f : α → Symbol) : Symbol := l.foldl (fun t k => t ^^^ f k) 0

section XorSum
variable {α : Type} {l : List α} {f g : α → Symbol}

theorem xorSum_cons (a : α) : xorSum (a :: l) f = f a ^^^ xorSum l f := by
  calc xorSum (a :: l) f = 0 ^^^ f a ^^^ xorSum l f := foldl_xor_eq l f (0 ^^^ f a)
    _ = f a ^^^ xorSum l f := congrArg (· ^^^ xorSum l f) BitVec.zero_xor

theorem xorSum_congr (h : ∀ k ∈ l, f k = g k) : xorSum l f = xorSum l g :=
  List.foldl_ext _ _ _ fun t k hk => by rw [h k hk]

theorem xorSum_xor : xorSum l (fun k => f k ^^^ g k) = xorSum l f ^^^ xorSum l g := by
  induction l with
  | nil => exact BitVec.xor_zero.symm
  | cons a l ih =>
    simp only [xorSum_cons, ih]
    ac_rfl

theorem xorSum_eq_zero (h : ∀ k ∈ l, f k = 0) : xorSum l f = 0 := by
  induction l with
  | nil => rfl
  | cons a l ih =>
    obtain ⟨ha, hl⟩ := List.forall_mem_cons.1 h
    rw [xorSum_cons, ha, ih hl]
    exact BitVec.xor_self

/-- A sum with one term that is not 0. -/
theorem xorSum_eq_single {k : α} (hnodup : l.Nodup) (hk : k ∈ l) (h : ∀ m ∈ l, m ≠ k → f m = 0) :
    xorSum l f = f k := by
  induction l with
  | nil => cases hk
  | cons a l ih =>
    obtain ⟨ha, hl⟩ := List.forall_mem_cons.1 h
    obtain ⟨hal, hnodup⟩ := List.nodup_cons.1 hnodup
    rw [xorSum_cons]
    rcases List.mem_cons.1 hk with rfl | hkl
    · rw [xorSum_eq_zero fun m hm => hl m hm fun hmk => hal (hmk ▸ hm)]
      exact BitVec.xor_zero
    · rw [ha fun hak => hal (hak ▸ hkl), ih hnodup hkl hl]
      exact BitVec.zero_xor

end XorSum

/-! ## The source's form -/

/-- What slot `k` adds to syndrome `i`. -/
def syndromeTerm (T : Config) (i : Nat) (cw : Vector Symbol 17) (k : Fin 17) : Symbol :=
  gmult T cw[k.val] (coeff T i k)

theorem syndrome_eq_xorSum (T : Config) (i : Nat) (cw : Vector Symbol 17) :
    syndrome T i cw = xorSum slots (syndromeTerm T i cw) := rfl

/-- What evaluation point `j` adds to the source's form of syndrome `i`, where it is not skipped. -/
def sourceTerm (T : Config) (i : Nat) (cw : Vector Symbol 17) (j : Nat) : Symbol :=
  gmult T (cw.toList.getD (if j ≤ 26 then j else j - 14) 0) (T.gexpAt (BitVec.ofNat 5 ((i * j) % 31)))

/-- The evaluation points that the source does not skip. -/
def usedPoints : List Nat := (List.range 31).filter fun j => ¬ (13 ≤ j ∧ j ≤ 26)

theorem sourceSyndrome_eq_xorSum (T : Config) (i : Nat) (cw : Vector Symbol 17) :
    sourceSyndrome T i cw = xorSum usedPoints (sourceTerm T i cw) := by
  rw [xorSum, usedPoints, List.foldl_filter]
  simp only [decide_eq_true_eq, ite_not]
  rfl

/-- The points that are used are those of the slots, in the same order (42_validator.md R94). -/
theorem map_jof_slots : slots.map jof = usedPoints := by decide

/-- The compacted position of a slot's evaluation point is the slot. -/
theorem position_jof (k : Fin 17) : (if jof k ≤ 26 then jof k else jof k - 14) = k.val := by revert k; decide

theorem sourceTerm_jof (T : Config) (i : Nat) (cw : Vector Symbol 17) (k : Fin 17) :
    sourceTerm T i cw (jof k) = syndromeTerm T i cw k := by
  have hslot : cw.toList.getD k.val 0 = cw[k.val] := by
    rw [List.getD_eq_getElem _ _ (by simp), Vector.getElem_toList]
  rw [sourceTerm, position_jof, hslot, syndromeTerm, coeff]

theorem syndrome_eq_sourceSyndrome (T : Config) (i : Nat) (cw : Vector Symbol 17) :
    syndrome T i cw = sourceSyndrome T i cw := by
  calc syndrome T i cw = xorSum slots fun k => sourceTerm T i cw (jof k) :=
        xorSum_congr fun k _ => (sourceTerm_jof T i cw k).symm
    _ = xorSum (slots.map jof) (sourceTerm T i cw) := List.foldl_map.symm
    _ = sourceSyndrome T i cw := by rw [map_jof_slots, ← sourceSyndrome_eq_xorSum]

/-- Settles O33: the source's used points are the points of the slots in order, and their positions are the slots. -/
theorem syndromeEqualsSourceForm : Obligations.SyndromeEqualsSourceForm :=
  ⟨fun _ => ⟨fun h => if_pos h, fun h => if_neg (Nat.not_le.2 h)⟩, syndrome_eq_sourceSyndrome⟩

/-! ## Linearity -/

/-- Settles O37: every term has the factor 0. -/
theorem zeroCodewordValid : Obligations.ZeroCodewordValid := by
  intro T
  have hzero (i : Nat) : syndrome T i (Vector.replicate 17 0) = 0 :=
    xorSum_eq_zero fun k _ => by rw [Vector.getElem_replicate, gmult_zero_left]
  exact (valid_eq_true_iff T _).2 ⟨hzero 1, hzero 2, hzero 3, hzero 4⟩

/-- The codeword with symbol `e` in slot `k` and 0 in every other: what a change of one slot adds. -/
def oneSlot (k : Fin 17) (e : Symbol) : Vector Symbol 17 := (Vector.replicate 17 0).set k e

theorem oneSlot_self (k : Fin 17) (e : Symbol) : (oneSlot k e)[k.val] = e := Vector.getElem_set_self _

theorem oneSlot_of_ne {m k : Fin 17} (e : Symbol) (h : m ≠ k) : (oneSlot k e)[m.val] = 0 := by
  rw [oneSlot, Vector.getElem_set_ne _ _ fun hkm => h (Fin.ext hkm.symm), Vector.getElem_replicate]

/-- A changed codeword is the codeword plus the change. -/
theorem set_eq_zipWith_oneSlot (C : Vector Symbol 17) (k : Fin 17) (x : Symbol) :
    C.set k x = Vector.zipWith (fun u v => u ^^^ v) C (oneSlot k (C[k.val] ^^^ x)) := by
  ext1 m hm
  rw [Vector.getElem_zipWith]
  by_cases hmk : m = k.val
  · subst hmk
    rw [Vector.getElem_set_self, oneSlot_self, ← BitVec.xor_assoc, BitVec.xor_self, BitVec.zero_xor]
  · have hzero : (oneSlot k (C[k.val] ^^^ x))[m] = 0 :=
      oneSlot_of_ne (m := ⟨m, hm⟩) _ fun h => hmk (congrArg Fin.val h)
    rw [Vector.getElem_set_ne _ _ (Ne.symm hmk), hzero]
    exact BitVec.xor_zero.symm

theorem syndrome_oneSlot (T : Config) (i : Nat) (k : Fin 17) (e : Symbol) :
    syndrome T i (oneSlot k e) = gmult T e (coeff T i k) := by
  calc syndrome T i (oneSlot k e) = syndromeTerm T i (oneSlot k e) k :=
        xorSum_eq_single (List.nodup_finRange 17) (List.mem_finRange k) fun m _ hm => by
          rw [oneSlot_of_ne e hm, gmult_zero_left]
    _ = gmult T e (coeff T i k) := by rw [syndromeTerm, oneSlot_self]

section Linear
variable {T : Config} (hexp : T.GexpGenerates)
include hexp

/-- The index of a coefficient is reduced modulo 31, so the coefficient is a power of the generator. -/
theorem coeff_ne_zero (i : Nat) (k : Fin 17) : coeff T i k ≠ 0 :=
  gexpAt_ne_zero hexp ((ne_31_iff _).2 (by rw [toNat_mod_31]; omega))

variable (hlog : T.GlogInverts) (hadd : FieldAdditive T)
include hlog hadd

theorem syndrome_zipWith_xor (i : Nat) (C D : Vector Symbol 17) :
    syndrome T i (Vector.zipWith (fun x y => x ^^^ y) C D) = syndrome T i C ^^^ syndrome T i D := by
  have hterm (k : Fin 17) : syndromeTerm T i (Vector.zipWith (fun x y => x ^^^ y) C D) k =
      syndromeTerm T i C k ^^^ syndromeTerm T i D k := by
    simp only [syndromeTerm, Vector.getElem_zipWith, gmult_comm T _ (coeff T i k), gmult_xor_right hexp hlog hadd]
  simp only [syndrome_eq_xorSum, ← xorSum_xor, xorSum_congr fun k _ => hterm k]

theorem syndrome_set (i : Nat) (C : Vector Symbol 17) (k : Fin 17) (x : Symbol) :
    syndrome T i (C.set k x) = syndrome T i C ^^^ gmult T (C[k.val] ^^^ x) (coeff T i k) := by
  rw [set_eq_zipWith_oneSlot, syndrome_zipWith_xor hexp hlog hadd, syndrome_oneSlot]

end Linear

/-- Settles O36: every term is additive, as the product distributes, and so is the sum. -/
theorem syndromesAreLinear : Obligations.SyndromesAreLinear := by
  rintro T ⟨-, hexp, hlog, -⟩ hadd i C D
  exact syndrome_zipWith_xor hexp hlog hadd i C D

/-- The check indices are 1..4 (42_validator.md R96). -/
theorem valid_eq_true_iff_forall (T : Config) (cw : Vector Symbol 17) :
    valid T cw = true ↔ ∀ i ∈ [1, 2, 3, 4], syndrome T i cw = 0 := by
  simp only [valid_eq_true_iff, List.forall_mem_cons, List.not_mem_nil, false_imp_iff, implies_true, and_true]

/-- Settles O38: the change of one slot is all that a syndrome sees, times a coefficient; neither factor is 0. -/
theorem singleSymbolErrorsDetected : Obligations.SingleSymbolErrorsDetected := by
  rintro T ⟨-, hexp, hlog, -⟩ hadd C k x hvalid hx
  have hchange : C[k.val] ^^^ x ≠ 0 := fun h => hx (BitVec.xor_eq_zero_iff.1 h).symm
  have hsyndrome : ∀ i ∈ [1, 2, 3, 4], syndrome T i (C.set k x) = gmult T (C[k.val] ^^^ x) (coeff T i k) ∧
      syndrome T i (C.set k x) ≠ 0 := by
    intro i hi
    have heq : syndrome T i (C.set k x) = gmult T (C[k.val] ^^^ x) (coeff T i k) := by
      rw [syndrome_set hexp hlog hadd, (valid_eq_true_iff_forall T C).1 hvalid i hi]
      exact BitVec.zero_xor
    exact ⟨heq, heq ▸ gmult_ne_zero hexp hchange (coeff_ne_zero hexp i k)⟩
  refine ⟨Bool.eq_false_iff.2 fun hset => ?_, hsyndrome⟩
  obtain ⟨-, hne⟩ := hsyndrome 1 (by decide)
  exact hne ((valid_eq_true_iff_forall T _).1 hset 1 (by decide))

end Sys2Proof.Machine
end

section
/-! The commands SYND and CHK (42_validator.md R97, R98) and the worked codewords of R97 and R102. -/

namespace Sys2Proof.Machine

theorem valid_eq_true_iff_allSyndromesZero (cw : Vector Symbol 17) :
    valid config cw = true ↔ AllSyndromesZero config cw := valid_eq_true_iff config cw

/-- The codeword of identifier 1 (42_validator.md R98, R102). -/
theorem valid_codeword_one : valid config #v[1, 0, 0, 0, 0, 0, 0, 0, 0, 0, 0, 0, 0, 17, 9, 6, 30] = true := by decide

/-- The codeword of identifier 1 with slot 11 changed (42_validator.md R97). -/
theorem syndromes_codeword_changed :
    [1, 2, 3, 4].map (fun i => (syndrome config i #v[1, 0, 0, 0, 0, 0, 0, 0, 0, 0, 0, 1, 0, 17, 9, 6, 30]).toNat) =
      [7, 21, 4, 28] := by decide

/-- Settles O39: the codeword of identifier 1 is valid, and so is the zero codeword. -/
theorem fiveSymbolChangeCanPass : Obligations.FiveSymbolChangeCanPass :=
  ⟨zeroCodewordValid config, valid_codeword_one, by decide⟩

/-! ## SYND -/

section Synd
variable {s : State} {c : BitVec 3} (hc : 1 ≤ c.toNat ∧ c.toNat ≤ 4)
include hc

theorem exec_synd (s : State) : exec (.synd c) s =
    .next (if s.cnt = 17 then respond .ok (zext64 (syndrome config c.toNat s.cw)) s else rejectState s) := by
  rw [exec_eq_effectWith, effectWith, syndEffect_of_some config c c.toNat s (if_pos hc)]

theorem exec_synd_of_cnt_eq (hcnt : s.cnt = 17) : exec (.synd c) s =
    .next (answered .ok (BitVec.ofNat 64 (syndrome config c.toNat s.cw).toNat) s) := by
  rw [exec_synd hc, if_pos hcnt, zext64_eq_ofNat]
  rfl

theorem exec_synd_of_cnt_ne (hcnt : s.cnt ≠ 17) : exec (.synd c) s = .next (answered .eState 0 s) := by
  rw [exec_synd hc, if_neg hcnt]
  rfl

/-- A finished decode holds a populated, valid codeword. -/
theorem exec_synd_of_doneOk (h : UnitInv config s) (hph : s.ph = .doneOk) :
    exec (.synd c) s = .next (answered .ok 0 s) := by
  obtain ⟨hcnt, hvalid, -, -⟩ := h.done hph
  have hmem : c.toNat ∈ [1, 2, 3, 4] := by
    simp only [List.mem_cons, List.not_mem_nil, or_false]
    omega
  rw [exec_synd_of_cnt_eq hc hcnt, (valid_eq_true_iff_forall config s.cw).1 hvalid _ hmem]
  rfl

end Synd

/-- The reserved check indices leave no legal word of opcode 8. -/
theorem illWord_of_reserved_check {w : Word} (hop : opField w = 0x8) (h : sField w ∈ [0#3, 5#3, 6#3, 7#3]) :
    IllWord w := by
  have hcheck : legalCheck (sField w) = false := by
    simp only [List.mem_cons, List.not_mem_nil, or_false] at h
    rcases h with h | h | h | h <;> rw [h] <;> rfl
  cases hd : decode w with
  | error e => exact illWord_of_decode_eq_error hd
  | ok i =>
    rw [decode_of_opcode_synd (congrArg BitVec.toNat hop), unlessReserved_eq_ok, unlessOperandReserved_eq_ok] at hd
    obtain ⟨-, hwf, -⟩ := hd
    exact absurd hwf (Bool.eq_false_iff.1 hcheck)

/-- Settles O34: SYND by the count; the words of opcode 8 have nine reserved bits and four reserved operands. -/
theorem syndCommand : Obligations.SyndCommand := by
  refine ⟨fun s c h1 h4 hcnt => ?_, fun s c h1 h4 => exec_synd_of_cnt_ne ⟨h1, h4⟩,
    fun s c h1 h4 => exec_synd_of_doneOk ⟨h1, h4⟩,
    fun c h1 h4 => decode_ofNat_wordNumber (.synd c) ((legalCheck_iff c).2 ⟨h1, h4⟩),
    fun w hop h => ?_, syndromes_codeword_changed⟩
  · rw [exec_synd_of_cnt_eq ⟨h1, h4⟩ hcnt, syndrome_eq_sourceSyndrome]
  · rcases h with hbits | hcheck
    · exact illWord_of_reserved_ne_zero (decode_of_opcode_synd (congrArg BitVec.toNat hop)) hbits
    · exact illWord_of_reserved_check hop hcheck

/-! ## CHK -/

theorem exec_chk (s : State) : exec .chk s =
    .next (if s.cnt = 17 then respond .ok (zext64 (BitVec.ofBool (valid config s.cw))) s else rejectState s) := by
  rw [exec_eq_effectWith, effectWith, chkEffect_eq]

theorem exec_chk_of_allSyndromesZero (s : State) (hcnt : s.cnt = 17) (h : AllSyndromesZero config s.cw) :
    exec .chk s = .next (answered .ok 1 s) := by
  rw [exec_chk, if_pos hcnt, (valid_eq_true_iff_allSyndromesZero s.cw).2 h]
  rfl

theorem exec_chk_of_not_allSyndromesZero (s : State) (hcnt : s.cnt = 17) (h : ¬ AllSyndromesZero config s.cw) :
    exec .chk s = .next (answered .ok 0 s) := by
  rw [exec_chk, if_pos hcnt, Bool.eq_false_iff.2 (mt (valid_eq_true_iff_allSyndromesZero s.cw).1 h)]
  rfl

theorem exec_chk_of_cnt_ne (s : State) (hcnt : s.cnt ≠ 17) : exec .chk s = .next (answered .eState 0 s) := by
  rw [exec_chk, if_neg hcnt]
  rfl

/-- Settles O35: CHK by the count and by the validity of the codeword; the changed codeword has first syndrome 7. -/
theorem chkCommand : Obligations.ChkCommand := by
  refine ⟨exec_chk_of_allSyndromesZero, exec_chk_of_not_allSyndromesZero, exec_chk_of_cnt_ne,
    decode_ofNat_wordNumber .chk rfl,
    fun w hop => illWord_of_reserved_ne_zero (decode_of_opcode_chk (congrArg BitVec.toNat hop)),
    (valid_eq_true_iff_allSyndromesZero _).1 valid_codeword_one, fun ⟨hfirst, _⟩ => ?_⟩
  have hlist := syndromes_codeword_changed
  rw [List.map_cons, hfirst] at hlist
  exact absurd (List.head_eq_of_cons_eq hlist) (by decide)

end Sys2Proof.Machine
end

section
/-! NOP and RST, and the machine as the unit with the default tables (43_orchestrator.md R105, R106, R121). -/

namespace Sys2Proof.Machine

/-- Settles O40: NOP answers, and the decoder of its opcode wants twelve zeros. -/
theorem nopCommand : Obligations.NopCommand :=
  ⟨fun s => exec_eq_effectWith .nop s, decode_ofNat_wordNumber .nop rfl,
    fun _ hop => illWord_of_reserved_ne_zero (decode_of_opcode_nop (congrArg BitVec.toNat hop))⟩

/-- Settles O49: the pending word is the input that the step takes. -/
theorem stepRunsTheDecodedCommand : Obligations.StepRunsTheDecodedCommand := by
  intro s w rest i hinputs hdecode
  have htake := (takeInput_eq_some_iff s (.command w) _).2 ⟨rest, hinputs, rfl⟩
  simp only [step, htake, hdecode]

/-- Settles O50: each command's meaning is its effect with the default tables, and a step runs one effect. -/
theorem machineIsTheUnitWithDefaultTables : Obligations.MachineIsTheUnitWithDefaultTables :=
  ⟨step_eq_stepWith, exec_eq_effectWith⟩

/-- Settles O41: RST clears the unit and answers; outside COLLECT every other word leaves the unit, and with it the phase,
as it was. -/
theorem rstCommand : Obligations.RstCommand := by
  refine ⟨fun s => exec_eq_effectWith .rst s, fun s w hph => ?_, decode_ofNat_wordNumber .rst rfl,
    fun _ hop => illWord_of_reserved_ne_zero (decode_of_opcode_rst (congrArg BitVec.toNat hop))⟩
  by_cases hrst : decode w = .ok .rst
  · exact ⟨_, step_presentCommand_eq w s, fun _ => hrst⟩
  · obtain ⟨t, hstep, hsame, -⟩ := finishedDecodeFrozenUntilRst s w hph hrst
    exact ⟨t, hstep, fun hne => absurd hsame hne⟩

end Sys2Proof.Machine
end

section
/-! The accumulator by its digits (43_orchestrator.md R108 to R110): the sum is the number whose digits to base 32 are the
data slots. -/

namespace Sys2Proof.Machine

theorem val_lt_of_mem_dataSlots : ∀ k ∈ dataSlots, k.val < 13 := by decide

/-- The accumulator reads the data slots only. -/
theorem accumulate_congr {C D : Vector Symbol 17} (h : ∀ k : Fin 17, k.val < 13 → C[k.val] = D[k.val]) :
    accumulate C = accumulate D :=
  List.foldl_ext _ _ _ fun _ k hk => by rw [h k (val_lt_of_mem_dataSlots k hk)]

/-- Settles O43: no carry is lost, and a parity slot is not among those read. -/
theorem accumulatorIsExact : Obligations.AccumulatorIsExact :=
  ⟨accumulate_toNat, fun C k x hk => accumulate_congr fun m hm => Vector.getElem_set_ne _ _ (by omega)⟩

/-- The values of the data slots, lowest first. -/
def dataValues (cw : Vector Symbol 17) : List Nat := List.ofFn fun k : Fin 13 => cw[k.val].toNat

theorem lt_of_mem_dataValues (cw : Vector Symbol 17) : ∀ v ∈ dataValues cw, v < 32 := by
  intro v hv
  obtain ⟨k, rfl⟩ := (List.mem_ofFn' _ _).1 hv
  exact cw[k.val].isLt

theorem weightedSum_eq_ofDigits (cw : Vector Symbol 17) : weightedSum cw = Nat.ofDigits 32 (dataValues cw) := by
  have hslots : dataSlots = List.ofFn (Fin.castLE (by decide : 13 ≤ 17)) := by decide
  have hterms : (dataValues cw).mapIdx (fun i v => v * 32 ^ i) = dataSlots.map fun k => cw[k.val].toNat * 32 ^ k.val := by
    rw [hslots, List.map_ofFn]
    refine List.ext_getElem (by rw [List.length_mapIdx, dataValues, List.length_ofFn, List.length_ofFn]) fun i _ _ => ?_
    simp only [List.getElem_mapIdx, dataValues, List.getElem_ofFn, Function.comp_apply, Fin.val_castLE]
  rw [weightedSum_eq_sum, Nat.ofDigits_eq_sum_mapIdx, hterms]

/-- Digit `k` of the sum is data slot `k`. -/
theorem weightedSum_digit (cw : Vector Symbol 17) (k : Fin 13) :
    weightedSum cw / 32 ^ k.val % 32 = cw[k.val].toNat := by
  have hlen : k.val < (dataValues cw).length := by rw [dataValues, List.length_ofFn]; exact k.isLt
  have hdigit : (dataValues cw)[k.val] = cw[k.val].toNat := List.getElem_ofFn _
  have hlt : cw[k.val].toNat < 32 := cw[k.val].isLt
  rw [weightedSum_eq_ofDigits, Nat.ofDigits_div_pow_eq_ofDigits_drop _ (by decide) _ (lt_of_mem_dataValues cw),
    List.drop_eq_getElem_cons hlen, Nat.ofDigits_cons, hdigit]
  exact (Nat.add_mul_mod_self_left ..).trans (Nat.mod_eq_of_lt hlt)

theorem extractLsb'_accumulate (cw : Vector Symbol 17) (k : Fin 13) :
    (accumulate cw).extractLsb' (5 * k.val) 5 = cw[k.val] := by
  refine BitVec.eq_of_toNat_eq ?_
  rw [BitVec.extractLsb'_toNat, accumulate_toNat, Nat.shiftRight_eq_div_pow, pow_mul]
  exact weightedSum_digit cw k

/-- The exact sum needs more than 64 bits exactly when the top bit of slot 12 is set (43_orchestrator.md R110). -/
theorem two_pow_64_le_weightedSum_iff (cw : Vector Symbol 17) : 2 ^ 64 ≤ weightedSum cw ↔ 16 ≤ cw[12].toNat := by
  obtain ⟨low, hlow, hsum, -⟩ := weightedSum_identifierOf_split cw
  omega

/-- The low 64 bits of the sum are the identifier, in range or not. -/
theorem ofNat_weightedSum (cw : Vector Symbol 17) : BitVec.ofNat 64 (weightedSum cw) = identifierOf cw := by
  rw [← accumulate_toNat, BitVec.ofNat_toNat, setWidth_accumulate]

/-- Settles O44: the digits of the sum are the slots, and slot 12 stands at bit 60. -/
theorem accumulatorIsConcatenation : Obligations.AccumulatorIsConcatenation := fun C =>
  ⟨extractLsb'_accumulate C, overflows_accumulate_iff C, two_pow_64_le_weightedSum_iff C, fun _ => ofNat_weightedSum C⟩

end Sys2Proof.Machine
end

section
/-! The command FIN (43_orchestrator.md R107, R111): one lemma per outcome of its three checks. -/

namespace Sys2Proof.Machine

section Fin
variable {T : Config} {s : State} (hph : s.ph = .collect)
include hph

theorem finEffect_of_cnt_ne (hcnt : s.cnt ≠ 17) :
    finEffect T s = answered .eLen 0 { s with ph := .fail, err := some .tooShort } := by
  rw [finEffect, if_neg (not_not.2 hph), if_pos hcnt]
  rfl

variable (hcnt : s.cnt = 17)
include hcnt

/-- What is left of FIN when the length is right. -/
theorem finEffect_of_cnt_eq : finEffect T s =
    if valid T s.cw = false then raiseError .checksumInvalid s
    else if overflows (accumulate s.cw) then raiseError .overflow s else finish (accumulate s.cw) s := by
  rw [finEffect, if_neg (not_not.2 hph), if_neg (not_not.2 hcnt)]

theorem finEffect_of_not_allSyndromesZero (h : ¬ AllSyndromesZero T s.cw) :
    finEffect T s = answered .eCsum 0 { s with ph := .fail, err := some .checksumInvalid } := by
  rw [finEffect_of_cnt_eq hph hcnt, if_pos (Bool.eq_false_iff.2 (mt (valid_eq_true_iff T s.cw).1 h))]
  rfl

variable (h : AllSyndromesZero T s.cw)
include h

/-- What is left of FIN when the checksum is right too. -/
theorem finEffect_of_allSyndromesZero : finEffect T s =
    if overflows (accumulate s.cw) then raiseError .overflow s else finish (accumulate s.cw) s := by
  rw [finEffect_of_cnt_eq hph hcnt, (valid_eq_true_iff T s.cw).2 h, if_neg (by decide)]

theorem finEffect_of_overflow (h12 : 16 ≤ s.cw[12].toNat) :
    finEffect T s = answered .eOvf 0 { s with ph := .fail, err := some .overflow } := by
  rw [finEffect_of_allSyndromesZero hph hcnt h, if_pos ((overflows_accumulate_iff s.cw).2 h12)]
  rfl

theorem finEffect_of_success (h12 : s.cw[12].toNat < 16) :
    finEffect T s = answered .ok (identifierOf s.cw) { s with ph := .doneOk, id := identifierOf s.cw } := by
  rw [finEffect_of_allSyndromesZero hph hcnt h,
    if_neg (mt (overflows_accumulate_iff s.cw).1 (Nat.not_le.2 h12)), ← setWidth_accumulate]
  rfl

end Fin

theorem exec_fin (s : State) : exec .fin s = .next (finEffect config s) := exec_eq_effectWith .fin s

/-- Settles O42: the checks in their order; the exact sum exceeds 64 bits exactly when slot 12 is 16 or more, and it is 1 in
the worked example. -/
theorem finCommand : Obligations.FinCommand := by
  refine ⟨fun s hph => ?otherPhase, fun s hph hcnt => ?length, fun s hph hcnt h => ?checksum,
    fun s hph hcnt h hsum => ?overflow, fun s hph hcnt h hsum => ?success, decode_ofNat_wordNumber .fin rfl,
    fun _ hop => illWord_of_reserved_ne_zero (decode_of_opcode_fin (congrArg BitVec.toNat hop)),
    fun s hph hcnt hcw => ?worked⟩ <;> rw [exec_fin]
  case otherPhase =>
    rw [finEffect_of_ne_collect config s hph]
    rfl
  case length => rw [finEffect_of_cnt_ne hph hcnt]
  case checksum => rw [finEffect_of_not_allSyndromesZero hph hcnt h]
  case overflow => rw [finEffect_of_overflow hph hcnt h ((two_pow_64_le_weightedSum_iff s.cw).1 hsum)]
  case success =>
    have h12 : ¬ 16 ≤ s.cw[12].toNat := mt (two_pow_64_le_weightedSum_iff s.cw).2 (Nat.not_le.2 hsum)
    rw [finEffect_of_success hph hcnt h (Nat.not_le.1 h12), ofNat_weightedSum]
  case worked =>
    have hvalid : AllSyndromesZero config s.cw :=
      hcw ▸ (valid_eq_true_iff_allSyndromesZero _).1 valid_codeword_one
    have h12 : s.cw[12].toNat < 16 := by rw [hcw]; decide
    have hid : identifierOf s.cw = 1 := by rw [hcw]; decide
    rw [finEffect_of_success hph hcnt hvalid h12, hid]

end Sys2Proof.Machine
end

section
/-! The command RD and the hexadecimal registers (43_orchestrator.md R114, R116, R117). -/

namespace Sys2Proof.Machine

/-! ## RD -/

section Rd
variable {r : BitVec 6} {x : Reg} {s : State} (hr : regOf r = some x)
include hr

theorem rdEffect_of_readReg_eq_some {d : Data} (hx : readReg x s = some d) : rdEffect r s = answered .ok d s := by
  simp only [rdEffect, hr, hx]
  rfl

theorem rdEffect_of_readReg_eq_none (hx : readReg x s = none) : rdEffect r s = answered .eState 0 s := by
  simp only [rdEffect, hr, hx]
  rfl

end Rd

theorem exec_rd (r : BitVec 6) (s : State) : exec (.rd r) s = .next (rdEffect r s) := exec_eq_effectWith (.rd r) s

/-- STATUS as a sum of its fields at their places (10_state.md R23). -/
theorem statusWord_eq_ofNat (s : State) : statusWord s = BitVec.ofNat 64
    (s.cnt.toNat * 256 + (if s.cnt = 17 then 16 else 0) + (errBits s.err).toNat * 4 + s.ph.bits.toNat) := by
  have hcwv : (BitVec.ofBool (cwv s)).toNat = if s.cnt = 17 then 1 else 0 := by
    by_cases hcnt : s.cnt = 17
    · rw [(cwv_eq_true_iff s).2 hcnt, if_pos hcnt]; rfl
    · rw [Bool.eq_false_iff.2 (mt (cwv_eq_true_iff s).1 hcnt), if_neg hcnt]; rfl
  rw [statusWord, zext64_eq_ofNat]
  congr 1
  simp only [toNat_append_eq_add, hcwv, BitVec.toNat_zero]
  split <;> omega

/-- Settles O45: the registers by the phases that permit reading them, and the numbers that name one. -/
theorem rdCommand : Obligations.RdCommand := by
  refine ⟨fun s => ?status, fun s hph => ?doneOk, fun s hph => ?otherPhase, fun s k => ?slot,
    fun r hr => decode_ofNat_wordNumber (.rd r) ((legalReg_iff r).2 hr), fun r hr => ?reserved,
    fun _ hop => illWord_of_reserved_ne_zero (decode_of_opcode_rd (congrArg BitVec.toNat hop))⟩
  case status => rw [exec_rd_status, statusWord_eq_ofNat]
  case doneOk =>
    simp only [exec_rd]
    rw [rdEffect_of_readReg_eq_some (x := .id) rfl (if_pos hph), rdEffect_of_readReg_eq_some (x := .hexHi) rfl (if_pos hph),
      rdEffect_of_readReg_eq_some (x := .hexLo) rfl (if_pos hph)]
    exact ⟨rfl, rfl, rfl⟩
  case otherPhase =>
    simp only [exec_rd]
    rw [rdEffect_of_readReg_eq_none (x := .id) rfl (if_neg hph), rdEffect_of_readReg_eq_none (x := .hexHi) rfl (if_neg hph),
      rdEffect_of_readReg_eq_none (x := .hexLo) rfl (if_neg hph)]
    exact ⟨rfl, rfl, rfl⟩
  case slot => rw [exec_rd, rdEffect_of_readReg_eq_some (regOf_cw k) rfl, zext64_eq_ofNat]
  case reserved =>
    refine illWord_of_not_legalNumber ?_
    have := r.isLt
    rw [BitVec.toNat_ofNat]
    unfold LegalNumber
    omega

/-! ## HEXHI and HEXLO -/

theorem hexHi_byte (id : Data) (k : Nat) (hk : k < 8) : (hexHi id).extractLsb' (56 - 8 * k) 8 = hexChar id k := by
  rw [hexHi_eq_packChars, show 56 - 8 * k = 8 * (7 - k) by omega, packChars_byte _ 7 k (by omega)]

theorem hexLo_byte (id : Data) (k : Nat) (hk : k < 8) :
    (hexLo id).extractLsb' (56 - 8 * k) 8 = hexChar id (8 + k) := by
  rw [hexLo_eq_packChars, show 56 - 8 * k = 8 * (7 - k) by omega, packChars_byte _ 7 k (by omega)]

/-- Settles O46: byte `k` of a register is a character, and character `8 + k` is the digit at bit `28 - 4 k`. -/
theorem hexRegistersAreHexChars : Obligations.HexRegistersAreHexChars := by
  refine ⟨fun id k hk => ⟨hexHi_byte id k hk, ?_⟩, by decide, by decide, by decide, by decide, by decide, by decide,
    by decide⟩
  rw [hexLo_byte id k hk, hexChar, show 60 - 4 * (8 + k) = 28 - 4 * k by omega]

end Sys2Proof.Machine
end

section
/-! The decode of any text (43_orchestrator.md R119): RST and the PUSH words collect the text, FIN judges it, and the two
reads give its identifier. -/

namespace Sys2Proof.Machine

/-- Seventeen collected characters are the codeword. -/
theorem Collected.isCodeword {T : Config} {vs : List Symbol} {s : State} (h : Collected T vs s) (hlen : vs.length = 17) :
    IsCodeword T vs s.cw := by
  intro n
  have hn : n.val < vs.length := by omega
  rw [h.slot n, List.getD_eq_getElem _ _ hn, List.getElem?_eq_getElem hn]

/-- The count is 17 exactly when seventeen characters of the text are in the alphabet: a surplus counts as 18. -/
theorem Collected.cnt_eq_17_iff {T : Config} {vs : List Symbol} {s : State} (h : Collected T vs s) :
    s.cnt = 17 ↔ vs.length = 17 := by
  have hcnt := h.cnt
  have h17 : (17 : BitVec 5).toNat = 17 := rfl
  rw [← BitVec.toNat_inj, h17]
  omega

theorem afterWords_decodeText (T : Config) (text : List CharCode) (s : State) :
    afterWords T (decodeText text) s = finEffect T (afterWords T (encode .rst :: pushs text) s) := by
  rw [decodeText, ← List.cons_append, afterWords, List.foldl_append]
  exact wordEffectWith_encode T .fin rfl _

theorem run_decodeText (text : List CharCode) (s : State) :
    Host.Core.run Sys2Proof.core (text.length + 2) (present (decodeText text) s) =
      .next (afterWords config (decodeText text) s) := by
  have hlen : (decodeText text).length = text.length + 2 := by simp [decodeText, pushs]
  exact hlen ▸ run_present _ s

/-- GETHEX in DONE_OK reads the two registers and changes nothing else. -/
theorem run_getHex (s : State) (hph : s.ph = .doneOk) : Host.Core.run Sys2Proof.core 2 (present getHex s) =
    .next { s with responses := s.responses ++ [⟨.ok, hexHi s.id⟩, ⟨.ok, hexLo s.id⟩] } := by
  have hhi : rdEffect 0x02 s = answered .ok (hexHi s.id) s := rdEffect_of_readReg_eq_some (x := .hexHi) rfl (if_pos hph)
  have hlo : rdEffect 0x03 (answered .ok (hexHi s.id) s) = answered .ok (hexLo s.id) (answered .ok (hexHi s.id) s) :=
    rdEffect_of_readReg_eq_some (x := .hexLo) rfl (if_pos hph)
  have hwords : afterWords config getHex s = rdEffect 0x03 (rdEffect 0x02 s) := by
    simp only [afterWords, getHex, List.foldl_cons, List.foldl_nil, wordEffectWith_encode config (.rd 0x02) rfl,
      wordEffectWith_encode config (.rd 0x03) rfl, effectWith]
  refine (run_present getHex s).trans ?_
  rw [hwords, hhi, hlo, answered, answered]
  simp only [List.append_assoc, List.singleton_append]

/-- Settles O47: the text's valid characters are the codeword when there are seventeen, and FIN makes its three checks on
what was collected. -/
theorem decodeOfAnyText : Obligations.DecodeOfAnyText := by
  intro s text
  have hcollected := collected_afterWords_rst_pushs config_cwmapPermutes s text
  have ht := afterWords_decodeText config text s
  obtain ⟨hcw, -, -⟩ := finEffect_frame config (afterWords config (encode .rst :: pushs text) s)
  generalize afterWords config (encode .rst :: pushs text) s = u at hcollected ht hcw
  refine ⟨_, run_decodeText text s, afterWords_inputs config s _, ?_⟩
  rw [ht]
  refine ⟨fun hlen => ?length, fun hlen => ⟨u.cw, hcollected.isCodeword hlen, hcw, fun h => ?checksum,
    fun h h12 => ?overflow, fun h h12 => ?success⟩⟩
  case length =>
    rw [finEffect_of_cnt_ne hcollected.ph (mt hcollected.cnt_eq_17_iff.1 hlen)]
    exact ⟨rfl, List.getLast?_concat⟩
  all_goals have hcnt := hcollected.cnt_eq_17_iff.2 hlen
  case checksum =>
    rw [finEffect_of_not_allSyndromesZero hcollected.ph hcnt h]
    exact ⟨rfl, List.getLast?_concat⟩
  case overflow =>
    rw [finEffect_of_overflow hcollected.ph hcnt h h12]
    exact ⟨rfl, List.getLast?_concat⟩
  case success =>
    rw [finEffect_of_success hcollected.ph hcnt h h12]
    exact ⟨List.getLast?_concat, run_getHex _ rfl⟩

end Sys2Proof.Machine
end

section
/-! The responses given so far play no part in a command (43_orchestrator.md R118, R121), as the pending inputs play
none. -/

namespace Sys2Proof.Machine

/-- The unit with other responses given so far. -/
def withResponses (rs : List Response) (s : State) : State := { s with responses := rs }

/-- The update `f` gives one response, and neither it nor anything else that `f` does depends on the earlier ones. -/
def AnswersAlike (f : State → State) : Prop := ∀ (s : State) (rs : List Response),
  ∃ r, (f s).responses = s.responses ++ [r] ∧ f (withResponses rs s) = withResponses (rs ++ [r]) (f s)

/-- A choice that does not look at the earlier responses, between two such updates. -/
theorem AnswersAlike.ite {p : State → Prop} [DecidablePred p] {f g : State → State}
    (hp : ∀ s rs, p (withResponses rs s) ↔ p s) (hf : AnswersAlike f) (hg : AnswersAlike g) :
    AnswersAlike fun s => if p s then f s else g s := by
  intro s rs
  by_cases h : p s
  · simpa only [if_pos h, if_pos ((hp s rs).2 h)] using hf s rs
  · simpa only [if_neg h, if_neg (mt (hp s rs).1 h)] using hg s rs

section EarlierResponses
variable (T : Config)

theorem storeSymbol_withResponses (v : Symbol) (rs : List Response) (s : State) :
    storeSymbol T v (withResponses rs s) = withResponses rs (storeSymbol T v s) := by
  simp only [storeSymbol, apply_dite (withResponses rs)]; rfl

theorem countValid_withResponses (rs : List Response) (s : State) :
    countValid (withResponses rs s) = withResponses rs (countValid s) := by
  simp only [countValid, apply_ite (withResponses rs)]; rfl

theorem pushEffect_answersAlike (c : CharCode) : AnswersAlike (pushEffect T c) := by
  refine .ite (fun _ _ => .rfl) (fun _ _ => ⟨_, rfl, rfl⟩) ?_
  cases mapLookup T c with
  | none => exact fun _ _ => ⟨_, rfl, rfl⟩
  | some v =>
    intro s rs
    refine ⟨⟨.ok, hitData (some v)⟩, by simp, ?_⟩
    simp only [storeSymbol_withResponses, countValid_withResponses]
    rfl

theorem finEffect_answersAlike : AnswersAlike (finEffect T) := by
  refine .ite (fun _ _ => .rfl) ?_ (.ite (fun _ _ => .rfl) ?_ (.ite (fun _ _ => .rfl) ?_ (.ite (fun _ _ => .rfl) ?_ ?_)))
  all_goals exact fun _ _ => ⟨_, rfl, rfl⟩

theorem rdEffect_answersAlike (r : BitVec 6) : AnswersAlike (rdEffect r) := by
  intro s rs
  unfold rdEffect
  cases regOf r with
  | none => exact ⟨_, rfl, rfl⟩
  | some x =>
    have hread : readReg x (withResponses rs s) = readReg x s := by cases x <;> rfl
    simp only [hread]
    cases readReg x s <;> exact ⟨_, rfl, rfl⟩

theorem ldmapEffect_answersAlike (k : Symbol) : AnswersAlike (ldmapEffect T k) := by
  intro s rs
  unfold ldmapEffect
  cases mapIndex k <;> exact ⟨_, rfl, rfl⟩

theorem syndEffect_answersAlike (c : BitVec 3) : AnswersAlike (syndEffect T c) := by
  unfold syndEffect
  cases checkIndex c with
  | none => exact fun _ _ => ⟨_, rfl, rfl⟩
  | some i => exact .ite (fun _ _ => .rfl) (fun _ _ => ⟨_, rfl, rfl⟩) fun _ _ => ⟨_, rfl, rfl⟩

theorem chkEffect_answersAlike : AnswersAlike (chkEffect T) :=
  .ite (fun _ _ => .rfl) (fun _ _ => ⟨_, rfl, rfl⟩) fun _ _ => ⟨_, rfl, rfl⟩

theorem effectWith_answersAlike (i : Instr) : AnswersAlike (effectWith T i) := by
  cases i with
  | push c => exact pushEffect_answersAlike T c
  | fin => exact finEffect_answersAlike T
  | rd r => exact rdEffect_answersAlike r
  | ldmap k => exact ldmapEffect_answersAlike T k
  | synd c => exact syndEffect_answersAlike T c
  | chk => exact chkEffect_answersAlike T
  | nop | rst | gmul | ldexp | ldlog | ldalf | mapc => exact fun _ _ => ⟨_, rfl, rfl⟩

/-- A command leaves the pending inputs. -/
theorem effectWith_inputs (i : Instr) (s : State) : (effectWith T i s).inputs = s.inputs := by
  have hself : effectWith T i s = withInputs s.inputs (effectWith T i s) := effectWith_withInputs T s.inputs s i
  rw [hself]
  rfl

end EarlierResponses

/-- Units with the same state differ at the two ports only. -/
theorem SameUnit.eq_withInputs_withResponses {s s' : State} (h : SameUnit s s') :
    s' = withInputs s'.inputs (withResponses s'.responses s) := by
  obtain ⟨hph, herr, hcnt, hcw, hid⟩ := h
  simp only [withInputs, withResponses, ← hph, ← herr, ← hcnt, ← hcw, ← hid]

/-- Settles O48: neither port plays a part in a command, so two units with the same state do and answer the same. -/
theorem commandsDependOnUnitStateOnly : Obligations.CommandsDependOnUnitStateOnly := by
  intro i s s' h
  obtain ⟨r, hr, halike⟩ := effectWith_answersAlike config i s s'.responses
  have heffect : effectWith config i s' =
      withInputs s'.inputs (withResponses (s'.responses ++ [r]) (effectWith config i s)) := by
    rw [← halike, ← effectWith_withInputs, ← h.eq_withInputs_withResponses]
  refine ⟨r, _, _, exec_eq_effectWith i s, exec_eq_effectWith i s', ?_, hr, ?_, effectWith_inputs config i s,
    effectWith_inputs config i s'⟩ <;> rw [heffect]
  · exact ⟨rfl, rfl, rfl, rfl, rfl⟩
  · rfl

end Sys2Proof.Machine
end

section
/-! The statements of 60_exceptions.md about the two rejections (R131, R132). -/

namespace Sys2Proof.Machine

/-- Settles O51: the one arm of `step` for a word that does not decode rejects it. -/
theorem illegalWordsAnsweredEIll : Obligations.IllegalWordsAnsweredEIll :=
  fun _ _ => illWord_of_decode_eq_error

/-- The list of 60_exceptions.md R132: the state `s` does not permit the command. -/
def Forbids (s : State) : Instr → Prop
  | .push _ | .fin => s.ph ≠ .collect
  | .rd r => (r = 0x01 ∨ r = 0x02 ∨ r = 0x03) ∧ s.ph ≠ .doneOk
  | .synd _ | .chk => s.cnt ≠ 17
  | .nop | .rst | .gmul _ _ | .ldexp _ | .ldlog _ | .ldalf _ | .ldmap _ | .mapc _ => False

theorem forbids_iff (s : State) (i : Instr) : Forbids s i ↔
    ((∃ c, i = .push c) ∨ i = .fin) ∧ s.ph ≠ .collect ∨
    (i = .rd 0x01 ∨ i = .rd 0x02 ∨ i = .rd 0x03) ∧ s.ph ≠ .doneOk ∨
    ((∃ c, i = .synd c) ∨ i = .chk) ∧ s.cnt ≠ 17 := by
  cases i <;> simp [Forbids]

/-- The state `t` is left by a command that is rejected for the state `s` exactly when `forbidden` holds: it is a rejection
that writes nothing, or an answer with another status. -/
inductive RejectsExactlyIf (forbidden : Prop) (s : State) : State → Prop where
  | rejected (h : forbidden) : RejectsExactlyIf forbidden s (rejectState s)
  | served {t : State} {st : Status} {d : Data} (h : ¬ forbidden) (hst : st ≠ .eState)
      (hr : t.responses = s.responses ++ [⟨st, d⟩]) : RejectsExactlyIf forbidden s t

section RejectsExactlyIf
variable {p : Prop} {s t : State}

theorem RejectsExactlyIf.of_respond_ok {d : Data} (hp : ¬ p) (h : t = respond .ok d s) : RejectsExactlyIf p s t :=
  .served hp (by decide) (congrArg State.responses h)

theorem RejectsExactlyIf.of_rejectState (hp : p) (h : t = rejectState s) : RejectsExactlyIf p s t := h ▸ .rejected hp

theorem RejectsExactlyIf.of_raiseError {e : DecodeError} (hp : ¬ p) (h : t = raiseError e s) : RejectsExactlyIf p s t :=
  .served hp (by cases e <;> decide) (congrArg State.responses h)

theorem RejectsExactlyIf.eq_answered (h : RejectsExactlyIf p s t) (hp : p) : t = answered .eState 0 s := by
  cases h with
  | rejected => rfl
  | served hnot => exact absurd hp hnot

/-- The last response tells the two cases apart. -/
theorem RejectsExactlyIf.of_response {d : Data} (h : RejectsExactlyIf p s t)
    (ht : t.responses = s.responses ++ [⟨.eState, d⟩]) : p := by
  cases h with
  | rejected hp => exact hp
  | served _ hst hr =>
    have hlast := List.head_eq_of_cons_eq (List.append_cancel_left (hr.symm.trans ht))
    exact absurd (congrArg Response.st hlast) hst

end RejectsExactlyIf

section Checks
variable (T : Config) (s : State)

theorem pushEffect_rejects (c : CharCode) : RejectsExactlyIf (s.ph ≠ .collect) s (pushEffect T c s) := by
  rcases pushEffect_cases T c s with ⟨hph, he⟩ | ⟨hph, _, he⟩ | ⟨hph, v, _, he⟩
  · exact .of_rejectState hph he
  · exact .of_respond_ok (not_not.2 hph) he
  · exact .served (st := .ok) (d := hitData (some v)) (not_not.2 hph) (by decide) (by simp [he])

theorem finEffect_rejects : RejectsExactlyIf (s.ph ≠ .collect) s (finEffect T s) := by
  rcases finEffect_cases T s with ⟨hph, he⟩ | ⟨hph, _, he⟩ | ⟨hph, _, _, he⟩ | ⟨hph, _, _, _, he⟩ | ⟨hph, _, _, _, he⟩
  · exact .of_rejectState hph he
  · exact .of_raiseError (not_not.2 hph) he
  · exact .of_raiseError (not_not.2 hph) he
  · exact .of_raiseError (not_not.2 hph) he
  · exact .served (not_not.2 hph) (by decide) (congrArg State.responses he)

/-- The numbers of the three registers that only DONE_OK lets the host read (10_state.md R24, R25). -/
theorem regOf_eq_identifier_view_iff (r : BitVec 6) :
    regOf r = some .id ∨ regOf r = some .hexHi ∨ regOf r = some .hexLo ↔ r = 0x01 ∨ r = 0x02 ∨ r = 0x03 := by
  revert r; decide

theorem rdEffect_rejects (r : BitVec 6) (h : legalReg r = true) :
    RejectsExactlyIf ((r = 0x01 ∨ r = 0x02 ∨ r = 0x03) ∧ s.ph ≠ .doneOk) s (rdEffect r s) := by
  obtain ⟨x, hx⟩ := Option.isSome_iff_exists.1 ((regOf_isSome r).trans h)
  have hnone : readReg x s = none ↔ (r = 0x01 ∨ r = 0x02 ∨ r = 0x03) ∧ s.ph ≠ .doneOk := by
    rw [readReg_eq_none_iff, ← regOf_eq_identifier_view_iff]
    simp only [hx, Option.some.injEq]
  rw [← hnone]
  rcases rdEffect_of_some r x s hx with ⟨d, hd, he⟩ | ⟨hd, he⟩
  · exact .of_respond_ok (by simp [hd]) he
  · exact .of_rejectState hd he

theorem syndEffect_rejects (c : BitVec 3) (h : legalCheck c = true) :
    RejectsExactlyIf (s.cnt ≠ 17) s (syndEffect T c s) := by
  obtain ⟨n, hn⟩ := Option.isSome_iff_exists.1 ((checkIndex_isSome c).trans h)
  have he := syndEffect_of_some T c n s hn
  by_cases hcnt : s.cnt = 17
  · exact .of_respond_ok (not_not.2 hcnt) (he.trans (if_pos hcnt))
  · exact .of_rejectState hcnt (he.trans (if_neg hcnt))

theorem chkEffect_rejects : RejectsExactlyIf (s.cnt ≠ 17) s (chkEffect T s) := by
  have he := chkEffect_eq T s
  by_cases hcnt : s.cnt = 17
  · exact .of_respond_ok (not_not.2 hcnt) (he.trans (if_pos hcnt))
  · exact .of_rejectState hcnt (he.trans (if_neg hcnt))

theorem effectWith_rejects (i : Instr) (hi : i.wf = true) : RejectsExactlyIf (Forbids s i) s (effectWith T i s) := by
  cases i with
  | push c => exact pushEffect_rejects T s c
  | fin => exact finEffect_rejects T s
  | rd r => exact rdEffect_rejects s r hi
  | synd c => exact syndEffect_rejects T s c hi
  | chk => exact chkEffect_rejects T s
  | ldmap k =>
    obtain ⟨n, hn⟩ := Option.isSome_iff_exists.1 ((mapIndex_isSome k).trans hi)
    exact .of_respond_ok not_false (ldmapEffect_of_some T s k n hn)
  | rst => exact .served (st := .ok) (d := 0) not_false (by decide) rfl
  | nop | gmul | ldexp | ldlog | ldalf | mapc => exact .of_respond_ok not_false rfl

end Checks

/-- Settles O53: each command is rejected exactly when the state forbids it, and its rejection writes nothing. -/
theorem stateErrorsExactlyAsListed : Obligations.StateErrorsExactlyAsListed := by
  intro i s hi
  have hcheck := effectWith_rejects config s i hi
  simp only [exec_eq_effectWith, Host.Outcome.next.injEq, ← forbids_iff]
  refine ⟨⟨?_, fun hforbids => ⟨_, 0, rfl, ?_⟩⟩, ?_⟩
  · rintro ⟨t, d, rfl, ht⟩
    exact hcheck.of_response ht
  · rw [hcheck.eq_answered hforbids]
    rfl
  · rintro t d rfl ht
    exact hcheck.eq_answered (hcheck.of_response ht)

end Sys2Proof.Machine
end

section
/-! No partial result: outside DONE_OK the identifier plays no part in a command (60_exceptions.md R138). -/

namespace Sys2Proof.Machine

/-- The unit with another identifier. -/
def withId (x : Data) (s : State) : State := { s with id := x }

/-- What the update `f` makes of `s` does not depend on the identifier in `s`, but for the identifier it leaves. -/
def IgnoresId (f : State → State) (s : State) : Prop := ∀ x, ∃ y, f (withId x s) = withId y (f s)

/-- A choice that does not look at the identifier, between two such updates. -/
theorem IgnoresId.ite {p : State → Prop} [DecidablePred p] {f g : State → State} {s : State}
    (hp : ∀ x, p (withId x s) ↔ p s) (hf : IgnoresId f s) (hg : IgnoresId g s) :
    IgnoresId (fun s => if p s then f s else g s) s := by
  intro x
  by_cases h : p s
  · simpa only [if_pos h, if_pos ((hp x).2 h)] using hf x
  · simpa only [if_neg h, if_neg (mt (hp x).1 h)] using hg x

section Identifier
variable (T : Config) (s : State)

theorem storeSymbol_withId (v : Symbol) (x : Data) : storeSymbol T v (withId x s) = withId x (storeSymbol T v s) := by
  simp only [storeSymbol, apply_dite (withId x)]; rfl

theorem countValid_withId (x : Data) : countValid (withId x s) = withId x (countValid s) := by
  simp only [countValid, apply_ite (withId x)]; rfl

theorem pushEffect_ignoresId (c : CharCode) : IgnoresId (pushEffect T c) s := by
  refine .ite (fun _ => .rfl) (fun x => ⟨x, rfl⟩) ?_
  cases mapLookup T c with
  | none => exact fun x => ⟨x, rfl⟩
  | some v =>
    intro x
    refine ⟨x, ?_⟩
    simp only [storeSymbol_withId, countValid_withId]
    rfl

/-- A success of FIN overwrites the identifier with the accumulated value; every other outcome leaves it. -/
theorem finEffect_ignoresId : IgnoresId (finEffect T) s := by
  refine .ite (fun _ => .rfl) ?_ (.ite (fun _ => .rfl) ?_ (.ite (fun _ => .rfl) ?_ (.ite (fun _ => .rfl) ?_ ?finish)))
  case finish => exact fun _ => ⟨(accumulate s.cw).setWidth 64, rfl⟩
  all_goals exact fun x => ⟨x, rfl⟩

/-- Outside DONE_OK the three registers that show the identifier cannot be read, and no other register shows it. -/
theorem readReg_withId (hph : s.ph ≠ .doneOk) (r : Reg) (x : Data) : readReg r (withId x s) = readReg r s := by
  have hph' : (withId x s).ph ≠ .doneOk := hph
  cases r with
  | status | cw => rfl
  | id | hexHi | hexLo => simp only [readReg, if_neg hph, if_neg hph']

theorem rdEffect_ignoresId (hph : s.ph ≠ .doneOk) (r : BitVec 6) : IgnoresId (rdEffect r) s := by
  intro x
  refine ⟨x, ?_⟩
  unfold rdEffect
  cases regOf r with
  | none => rfl
  | some n =>
    simp only [readReg_withId s hph n x]
    cases readReg n s <;> rfl

theorem ldmapEffect_ignoresId (k : Symbol) : IgnoresId (ldmapEffect T k) s := by
  unfold ldmapEffect
  cases mapIndex k <;> exact fun x => ⟨x, rfl⟩

theorem syndEffect_ignoresId (c : BitVec 3) : IgnoresId (syndEffect T c) s := by
  unfold syndEffect
  cases checkIndex c with
  | none => exact fun x => ⟨x, rfl⟩
  | some n => exact .ite (fun _ => .rfl) (fun x => ⟨x, rfl⟩) fun x => ⟨x, rfl⟩

theorem chkEffect_ignoresId : IgnoresId (chkEffect T) s :=
  .ite (fun _ => .rfl) (fun x => ⟨x, rfl⟩) fun x => ⟨x, rfl⟩

/-- RD is the one command that looks at the identifier, and it does in DONE_OK only; RST and FIN may overwrite it. -/
theorem effectWith_ignoresId (hph : s.ph ≠ .doneOk) (i : Instr) : IgnoresId (effectWith T i) s := by
  cases i with
  | push c => exact pushEffect_ignoresId T s c
  | fin => exact finEffect_ignoresId T s
  | rd r => exact rdEffect_ignoresId s hph r
  | ldmap k => exact ldmapEffect_ignoresId T s k
  | synd c => exact syndEffect_ignoresId T s c
  | chk => exact chkEffect_ignoresId T s
  | rst => exact fun _ => ⟨0, rfl⟩
  | nop | gmul | ldexp | ldlog | ldalf | mapc => exact fun x => ⟨x, rfl⟩

end Identifier

/-- Settles O54: with another identifier the command leaves the same state but for the identifier, so it gives the same
response; the second part is a clause of the invariant. -/
theorem noPartialResult : Obligations.NoPartialResult := by
  refine ⟨fun i s x hph => ?_, fun s hinv => hinv.id_zero⟩
  obtain ⟨r, hr, -⟩ := effectWith_answersAlike config i s []
  obtain ⟨y, hy⟩ : ∃ y, effectWith config i { s with id := x } = withId y (effectWith config i s) :=
    effectWith_ignoresId config s hph i x
  refine ⟨_, _, r, exec_eq_effectWith i s, exec_eq_effectWith i { s with id := x }, hr, ?_⟩
  rw [hy]
  exact ⟨hr, rfl, rfl, rfl, rfl⟩

end Sys2Proof.Machine
end

section
/-! The statements of 70_reset_and_hazards.md: hardware reset (R143, R144) and progress (R158). -/

namespace Sys2Proof.Machine

/-- A run with every step taken is the iterated effect: neither a fault nor a refusal ends it early. -/
theorem run_eq_iterate_stepWith (n : Nat) (s : State) :
    Host.Core.run Sys2Proof.core n s = .next ((stepWith config)^[n] s) := by
  induction n generalizing s with
  | zero => rfl
  | succ n ih => rw [run_succ, ih, Function.iterate_succ_apply]

/-- Settles O57: every step answers a next state, so by induction on its length a run has a last state. -/
theorem everyRunGoesOn : Obligations.EveryRunGoesOn :=
  fun s n => ⟨_, run_eq_iterate_stepWith n s⟩

/-- Hardware reset in either form takes its place in the inputs and clears the unit; the word of a command in progress
plays no part. -/
theorem step_of_reset_cons (s : State) (rest : List HostInput)
    (h : s.inputs = .reset :: rest ∨ ∃ w, s.inputs = .resetDuring w :: rest) :
    step s = .next (clearUnit { s with inputs := rest }) := by
  rw [step_eq_stepWith]
  obtain h | ⟨w, h⟩ := h
  · rw [stepWith_of_cons config s _ rest h]; rfl
  · rw [stepWith_of_cons config s _ rest h]; rfl

/-- Settles O55: both forms of hardware reset clear the unit and respond nothing; RST clears the same unit and answers. -/
theorem hardwareResetGivesResetState : Obligations.HardwareResetGivesResetState := by
  refine ⟨fun s rest h => ?_, fun s w rest h => ?_, fun s rest h => ?_⟩
  · exact step_of_reset_cons s rest (.inl h)
  · exact step_of_reset_cons s rest (.inr ⟨w, h⟩)
  · exact ⟨_, rstEffect s, step_of_reset_cons s rest (.inl h), exec_eq_effectWith .rst s, rfl, rfl, rfl, rfl, rfl⟩

end Sys2Proof.Machine
end
